-- ==== Sys2Proof/Word.lean ====
section
/-! DEFINITION. The word types of the block: bytes, 16-bit speed codes, 32-bit register values, 64-bit command words
(00_scope.md R8). -/

namespace Sys2Proof

/-- A byte: 8 bits, value 0 to 255 (R8). -/
abbrev Byte := BitVec 8

/-- A 16-bit speed code (R54). -/
abbrev Code := BitVec 16

/-- The 32-bit value of a control register (R19), and a binary32 pattern (R46). -/
abbrev Word32 := BitVec 32

/-- A command word (R46). -/
abbrev Word64 := BitVec 64

end Sys2Proof
end

