-- ==== Sys2Proof/Config.lean ====
section
/-! DEFINITION. What an implementation of the block fixes and the spec does not give (00_scope.md R6, R7;
93_implementation_defined.md U1 to U3, U8, U9). The values are opaque: nothing in Lean can evaluate one or prove a value of
it, so a claim holds for all of them. Where the spec asks a relation between parameters, `legalise` maps the legal records to
themselves and every other record to a legal one, so the parameters range over the legal records, all of them and no others. -/

namespace Sys2Proof

/-- The fourteen byte constants of R6. -/
structure FrameConsts where
  opcAct   : Byte
  opcDeact : Byte
  opcLoad  : Byte
  opcJog   : Byte
  addr0    : Byte
  addr1    : Byte
  act0     : Byte
  act1     : Byte
  deact0   : Byte
  deact1   : Byte
  psel     : Byte
  jf0      : Byte
  jf1      : Byte
  jf2      : Byte
deriving DecidableEq, Repr, Inhabited

/-- The one constraint of R6: `(DEACT0, DEACT1) != (ACT0, ACT1)`. -/
abbrev FrameConsts.Legal (c : FrameConsts) : Prop := (c.deact0, c.deact1) ≠ (c.act0, c.act1)

/-- A legal record is left alone; in another one `DEACT1` is moved off `ACT1`. -/
def FrameConsts.legalise (c : FrameConsts) : FrameConsts :=
  { c with deact1 := if c.deact0 = c.act0 ∧ c.deact1 = c.act1 then c.deact1 + 1 else c.deact1 }

/-- The settle parameters `T_ACT`, `T_DEACT`, `T_LOAD`, `T_JOG` of R7 and R21, in ticks. -/
structure SettleTimes where
  act   : Word32
  deact : Word32
  load  : Word32
  jog   : Word32
deriving DecidableEq, Repr, Inhabited

/-- `min(T_ACT, T_LOAD) > max(T_DEACT, T_JOG)` (R7, R21). -/
abbrev SettleTimes.Legal (t : SettleTimes) : Prop :=
  max t.deact.toNat t.jog.toNat < min t.act.toNat t.load.toNat

/-- A legal record is left alone; another one is replaced by the least legal one. -/
def SettleTimes.legalise (t : SettleTimes) : SettleTimes :=
  { act   := if t.Legal then t.act else 1
    deact := if t.Legal then t.deact else 0
    load  := if t.Legal then t.load else 1
    jog   := if t.Legal then t.jog else 0 }

/-- The byte constants as an implementation gives them, before the constraint of R6. -/
opaque Config.rawConsts : FrameConsts

/-- The settle parameters as an implementation gives them, before the constraint of R21. -/
opaque Config.rawTimes : SettleTimes

/-- The byte constants of R6 (open parameters, U8; DESIGN CHOICE, log 4: safe). -/
def Config.consts : FrameConsts := Config.rawConsts.legalise

/-- The settle parameters of R21 (open parameters, U9; DESIGN CHOICE, log 5: safe). -/
def Config.times : SettleTimes := Config.rawTimes.legalise

/-- The free value of an unspecified speed code (R80, R81, U2, U3), by the number of the draw (DESIGN CHOICE, log 8:
safe). -/
opaque Config.freeSpeedCode : Nat → Code

/-- How many bytes the transport is willing to take at a write that no listed input answers (R37, U1), by the number of the
draw (DESIGN CHOICE, log 9: safe). -/
opaque Config.freeCount : Nat → Nat

/-- The serial transport's fixed rate in the source deployment (R7, R134); its unit is not stated and no rule uses it. -/
def Config.baud : Nat := 921600

/-- The motor identifiers of the source deployment (R7). -/
def Config.motorIds : List Byte := [0x0C, 0x0D, 0x0E]

/-- The set `MOTOR_IDS` as the mask of R22: bit `k` set when motor id `k` is in it. -/
def Config.idsetReset : BitVec 16 := 0x7000

end Sys2Proof
end

