-- ==== Sys2Proof/Machine/Frames.lean ====
section
/-! DEFINITION. The four frames, byte by byte (30_encoding.md R48 to R54, 40_fixed_frames.md R65), over a record of the open
byte constants. -/

namespace Sys2Proof.Machine

/-- `hdr(opc, id)`: the marker, the op-code, the two fixed address bytes and the motor id, offsets 0 to 5 (R49, R65). -/
def hdr (c : FrameConsts) (opc id : Byte) : List Byte := [0x41, 0x54, opc, c.addr0, c.addr1, id]

/-- `trl`: the terminator (R65). -/
def trl : List Byte := [0x0D, 0x0A]

/-- `hi8(c)`, bits 15:8 (R8). -/
def hi8 (code : Code) : Byte := code.extractLsb' 8 8

/-- `lo8(c)`, bits 7:0 (R8). -/
def lo8 (code : Code) : Byte := code.extractLsb' 0 8

/-- Format F10, the frame of `ACTIVATE` (R51, R66). -/
def activateFrame (c : FrameConsts) (id : Byte) : List Byte :=
  hdr c c.opcAct id ++ [c.act0, c.act1] ++ trl

/-- Format F10, the frame of `DEACTIVATE` (R51, R67). -/
def deactivateFrame (c : FrameConsts) (id : Byte) : List Byte :=
  hdr c c.opcDeact id ++ [c.deact0, c.deact1] ++ trl

/-- Format F17L, the frame of `LOADPARAMS` (R52, R68). -/
def loadFrame (c : FrameConsts) (id : Byte) : List Byte :=
  hdr c c.opcLoad id ++ [0x08] ++ [c.psel, 0, 0, 0, 0, 0, 0, 0] ++ trl

/-- Format F17J, the frame of `JOG` and of the commands that resolve to it; the speed code goes high byte first (R53, R54,
R84). -/
def jogFrame (c : FrameConsts) (id flag : Byte) (code : Code) : List Byte :=
  hdr c c.opcJog id ++ [0x08] ++ [0x05, 0x70, c.jf0, c.jf1, c.jf2, flag, hi8 code, lo8 code] ++ trl

end Sys2Proof.Machine
end

