-- ==== Sys2Proof/Syntax.lean ====
section
/-! DEFINITION. The commands and configuration accesses of the block: one constructor of `Instr` per row of
spec/opcode_table.json (30_encoding.md R46, R47, R57). A command constructor carries the reserved bits of its word too,
because the block latches the word whole (`CUR <- w`, 42_transmit.md R91); R60 says they change nothing else. -/

namespace Sys2Proof

/-- The reserved bits of format M: bits 7:3 (listed as 3 and 7:4) and 63:16 (R46). -/
structure ReservedM where
  low  : BitVec 5
  high : BitVec 48
deriving DecidableEq, Repr

/-- The reserved bits of `JOG`: bits 7:3 and 31:24 (R46). -/
structure ReservedJ where
  low : BitVec 5
  mid : BitVec 8
deriving DecidableEq, Repr

/-- The reserved bits of `MOVEAT`: bits 7:3 and 31:16, the place of the flag being reserved there (R46, R86). -/
structure ReservedMoveAt where
  low : BitVec 5
  mid : BitVec 16
deriving DecidableEq, Repr

/-- The reserved bits of format B: bit 3, bits 31:16 and bits 63:61 (R46). -/
structure ReservedB where
  bit3 : BitVec 1
  mid  : BitVec 16
  top  : BitVec 3
deriving DecidableEq, Repr

/-- The instructions of the block. -/
inductive Instr where
  /-- `ACTIVATE id`, format M, `OP = 0` (R66). -/
  | activate (id : Byte) (rsv : ReservedM)
  /-- `DEACTIVATE id`, format M, `OP = 1` (R67). -/
  | deactivate (id : Byte) (rsv : ReservedM)
  /-- `LOADPARAMS id`, format M, `OP = 2` (R68). -/
  | loadparams (id : Byte) (rsv : ReservedM)
  /-- `JOG id, speed, flag`, format J, `OP = 3`; `speed` is a binary32 pattern (R84). -/
  | jog (id : Byte) (speed : Word32) (flag : Byte) (rsv : ReservedJ)
  /-- `STOP id`, format M, `OP = 4` (R85). -/
  | stop (id : Byte) (rsv : ReservedM)
  /-- `MOVEAT id, speed`, format J without flag, `OP = 5` (R86). -/
  | moveat (id : Byte) (speed : Word32) (rsv : ReservedMoveAt)
  /-- `BRIDGE ident, [data0, ...]`, format B, `OP = 6`; `len` is the number of payload bytes, an unsigned count (R56,
  R105). -/
  | bridge (ident : BitVec 29) (len : Nat) (data0 : Byte) (rsv : ReservedB)
  /-- The reserved encoding `OP = 7`; bits 63:3 are reserved (R58). -/
  | reserved7 (rsv : BitVec 61)
  /-- `CFGRD n`, a read access on the configuration port; `n` is any non-negative integer (R102). -/
  | cfgrd (n : Nat)
  /-- `CFGWR n, value`, a write access on the configuration port (R103). -/
  | cfgwr (n : Nat) (value : Word32)
deriving DecidableEq, Repr

end Sys2Proof
end

