-- ==== Sys2Proof/WellFormed.lean ====
section
/-! DEFINITION. When a term of `Instr` stands for something a port can carry. The field types fix every width but one:
`LEN` is a count, and its field in the word has four bits, 7:4 (30_encoding.md R46). The values 9 to 15 are encodable: they
are the reserved lengths, to which R59 gives an outcome. -/

namespace Sys2Proof

/-- The payload count fits the four bits 7:4 of format B (R46). -/
def lenFits (len : Nat) : Bool := decide (len < 16)

/-- An instruction is well formed when every operand fits its field. -/
def WellFormed : Instr → Bool
  | .activate _ _     => true
  | .deactivate _ _   => true
  | .loadparams _ _   => true
  | .jog _ _ _ _      => true
  | .stop _ _         => true
  | .moveat _ _ _     => true
  | .bridge _ len _ _ => lenFits len
  | .reserved7 _      => true
  | .cfgrd _          => true
  | .cfgwr _ _        => true

end Sys2Proof
end

