-- ==== Sys2Proof/Decode.lean ====
section
/-! DEFINITION. What the two ports carry, the decoder from it to `Instr`, and the encoder back (30_encoding.md R45 to R47,
R56 to R60). The command word is one 64-bit value presented whole, without a byte order (20_memory.md R35); the
configuration port's signals are not specified (92_eei_decisions.md D16), so an access there is its register number and
value. Every 64-bit word decodes: the eight values of `OP` are all given a command or the reserved outcome. -/

namespace Sys2Proof

/-- What the host puts on a port: a word on the command port (R45), or a read or write access on the configuration port
(R102, R103). -/
inductive PortAccess where
  | command (w : Word64)
  | configRead (n : Nat)
  | configWrite (n : Nat) (value : Word32)
deriving DecidableEq, Repr

/-- `OP`, bits 2:0 of a command word (R46). -/
def opField (w : Word64) : BitVec 3 := w.extractLsb' 0 3

/-- `ID`, bits 15:8 (R46). -/
def idField (w : Word64) : Byte := w.extractLsb' 8 8

/-- `FLAG`, bits 23:16 of `JOG` (R46). -/
def flagField (w : Word64) : Byte := w.extractLsb' 16 8

/-- `SPEED`, bits 63:32 of format J (R46). -/
def speedField (w : Word64) : Word32 := w.extractLsb' 32 32

/-- `LEN`, bits 7:4 of format B, an unsigned count (R46, R56). -/
def lenField (w : Word64) : Nat := (w.extractLsb' 4 4).toNat

/-- `DATA0`, bits 15:8 of format B (R46). -/
def data0Field (w : Word64) : Byte := w.extractLsb' 8 8

/-- `IDENT`, bits 60:32 of format B (R46). -/
def identField (w : Word64) : BitVec 29 := w.extractLsb' 32 29

/-- The bits format M leaves reserved (R46). -/
def reservedM (w : Word64) : ReservedM := { low := w.extractLsb' 3 5, high := w.extractLsb' 16 48 }

/-- The bits `JOG` leaves reserved (R46). -/
def reservedJ (w : Word64) : ReservedJ := { low := w.extractLsb' 3 5, mid := w.extractLsb' 24 8 }

/-- The bits `MOVEAT` leaves reserved (R46). -/
def reservedMoveAt (w : Word64) : ReservedMoveAt := { low := w.extractLsb' 3 5, mid := w.extractLsb' 16 16 }

/-- The bits format B leaves reserved (R46). -/
def reservedB (w : Word64) : ReservedB :=
  { bit3 := w.extractLsb' 3 1, mid := w.extractLsb' 16 16, top := w.extractLsb' 61 3 }

/-- The command a word selects: `OP` alone decides which (R47, R57); 7 is the reserved encoding (R58). -/
def decodeCommand (w : Word64) : Instr :=
  match (opField w).toNat with
  | 0 => .activate (idField w) (reservedM w)
  | 1 => .deactivate (idField w) (reservedM w)
  | 2 => .loadparams (idField w) (reservedM w)
  | 3 => .jog (idField w) (speedField w) (flagField w) (reservedJ w)
  | 4 => .stop (idField w) (reservedM w)
  | 5 => .moveat (idField w) (speedField w) (reservedMoveAt w)
  | 6 => .bridge (identField w) (lenField w) (data0Field w) (reservedB w)
  | _ => .reserved7 (w.extractLsb' 3 61)

/-- The instruction an access on a port asks for. -/
def decode : PortAccess → Instr
  | .command w       => decodeCommand w
  | .configRead n    => .cfgrd n
  | .configWrite n v => .cfgwr n v

/-- The word of a format M command (R46). -/
def wordM (op : BitVec 3) (id : Byte) (rsv : ReservedM) : Word64 :=
  rsv.high ++ id ++ rsv.low ++ op

/-- The word of a `JOG` (R46). -/
def wordJog (id : Byte) (speed : Word32) (flag : Byte) (rsv : ReservedJ) : Word64 :=
  speed ++ rsv.mid ++ flag ++ id ++ rsv.low ++ (3 : BitVec 3)

/-- The word of a `MOVEAT` (R46). -/
def wordMoveAt (id : Byte) (speed : Word32) (rsv : ReservedMoveAt) : Word64 :=
  speed ++ rsv.mid ++ id ++ rsv.low ++ (5 : BitVec 3)

/-- The word of a `BRIDGE` (R46). -/
def wordBridge (ident : BitVec 29) (len : Nat) (data0 : Byte) (rsv : ReservedB) : Word64 :=
  rsv.top ++ ident ++ rsv.mid ++ data0 ++ BitVec.ofNat 4 len ++ rsv.bit3 ++ (6 : BitVec 3)

/-- A word with `OP = 7` (R58). -/
def wordReserved7 (rsv : BitVec 61) : Word64 := rsv ++ (7 : BitVec 3)

/-- What the host puts on a port to ask for an instruction. -/
def encode : Instr → PortAccess
  | .activate id rsv              => .command (wordM 0 id rsv)
  | .deactivate id rsv            => .command (wordM 1 id rsv)
  | .loadparams id rsv            => .command (wordM 2 id rsv)
  | .jog id speed flag rsv        => .command (wordJog id speed flag rsv)
  | .stop id rsv                  => .command (wordM 4 id rsv)
  | .moveat id speed rsv          => .command (wordMoveAt id speed rsv)
  | .bridge ident len data0 rsv   => .command (wordBridge ident len data0 rsv)
  | .reserved7 rsv                => .command (wordReserved7 rsv)
  | .cfgrd n                      => .configRead n
  | .cfgwr n value                => .configWrite n value

/-- The command word that spec/opcode_table.json's bits `w` stand for when it gives `nbits` of them: bit 0 is the least
significant, the bits above `nbits` are 0. -/
def tableWord (nbits w : Nat) : Word64 := BitVec.ofNat 64 (w % 2 ^ nbits)

/-- The instruction the decoder reads from a row's bits; no instruction is wider than the 64 bits of R62. -/
def decodeTableWord (nbits w : Nat) : Option Instr :=
  if nbits ≤ 64 then some (decode (.command (tableWord nbits w))) else none

end Sys2Proof
end

