-- ==== Sys2Proof/Machine/State.lean ====
section
/-! DEFINITION. The state of the block and of the agents around it (10_state.md R10 to R29, 20_memory.md R30 to R32), as
plain data, and its value after reset. -/

namespace Sys2Proof.Machine

/-- `PHASE` (R13): which step of the transmission contract the current command has reached. -/
inductive Phase where
  | idle
  | clear
  | write
  | drain
  | settle
deriving DecidableEq, Repr

/-- `CUR_KIND` (R14): which frame-emitting operation the current command resolved to. -/
inductive Kind where
  | act
  | deact
  | load
  | jog
deriving DecidableEq, Repr

/-- `RES` (60_exceptions.md R116): the outcome of a completed command. -/
inductive Result where
  /-- 0: the transport accepted the whole frame. -/
  | sent
  /-- 1: the transport accepted fewer bytes (R117). -/
  | shortWrite
  /-- 2: a bus frame that is no motor command (R118). -/
  | ignored
  /-- 3: a reserved encoding (R119). -/
  | illegal
deriving DecidableEq, Repr

/-- The frame buffer `FB` (R15, R31): the offsets that hold a value, each with its byte, in rising order. An offset that is
not listed holds no value (R29: unspecified; log 2). -/
abbrev Memory := List Host.Cell

/-- What an agent other than the host's two ports does next (R9, R27, R90, R131). -/
inductive AgentMove where
  /-- The encoder takes its own next step, if it has one. Should it be the write step, the transport answers `count`, or the
  whole frame where `count` is more (R37). -/
  | encoder (count : Nat)
  /-- The link peer's byte arrives in `RXBUF` (R27). -/
  | linkByte (b : Byte)
  /-- The transport sends the byte at the head of `TXPEND` (R27). -/
  | transportSends
  /-- The reset input is asserted and released (R130); of a frame in flight the first `kept` bytes are on the wire
  afterwards (R131, U11). -/
  | reset (kept : Nat)
deriving DecidableEq, Repr

/-- One move of the world around the block. -/
inductive Input where
  /-- The host presents a command word, or makes an access on the configuration port, at this moment (R45, R102, R103). -/
  | port (a : PortAccess)
  | agent (m : AgentMove)
deriving DecidableEq, Repr

/-- Why the machine stops. The block itself never does (R115): these guard reads the spec never makes. -/
inductive Fault where
  /-- Raised by the write step when it reads an offset of `FB` that nothing has written (R29, U12: a read before a write).
  Safe: the model stops where the spec gives no value; no run from reset comes to it. -/
  | unwrittenByte (offset : Nat)
  /-- Raised by a read or a write of `FB` beyond offset 16, which does not exist (R30). Safe, and no run from reset comes to
  it. -/
  | noSuchOffset (offset : Nat)
deriving DecidableEq, Repr

/-- Why an instruction has no meaning. -/
inductive Refusal where
  /-- Raised by `exec` for an instruction the model gives no meaning to. Safe; no arm of this model raises it. -/
  | notModelled (mnemonic : String)
deriving DecidableEq, Repr

/-- The whole state. The last four fields are the model's own; INVENTORY.md lists every field with its rule. -/
structure State where
  /-- `PHASE` (R13). -/
  phase       : Phase
  /-- `CUR`, the command word latched by the accept step (R14, R91). -/
  cur         : Word64
  /-- `CUR_KIND` (R14). -/
  curKind     : Kind
  /-- `FB[0..16]` (R15). -/
  fb          : Memory
  /-- `FLEN` (R15). -/
  flen        : BitVec 5
  /-- `ACC`, the count of the current write (R16). -/
  acc         : BitVec 5
  /-- `TMR`, the settle timer (R16, R125). -/
  tmr         : Word32
  /-- `CR.STATUS.RES` (R17, R20). -/
  res         : Result
  /-- `CR.STATUS.RES_VALID` (R17, R20). -/
  resValid    : Bool
  /-- `CR.STATUS.LAST_OP` (R17, R20). -/
  lastOp      : BitVec 3
  /-- `CR.SETTLE_ACT`, register 1 (R21). -/
  settleAct   : Word32
  /-- `CR.SETTLE_DEACT`, register 2 (R21). -/
  settleDeact : Word32
  /-- `CR.SETTLE_LOAD`, register 3 (R21). -/
  settleLoad  : Word32
  /-- `CR.SETTLE_JOG`, register 4 (R21). -/
  settleJog   : Word32
  /-- `CR.IDSET`, register 5: the sixteen bits that are used (R22). -/
  idset       : BitVec 16
  /-- The wire: every byte the transport accepted since reset, in order (R32). -/
  wire        : List Byte
  /-- `RXBUF`: inbound bytes nobody has read (R27). -/
  rxbuf       : List Byte
  /-- `TXPEND`: accepted bytes the transport has not yet sent, the next one first (R27). -/
  txpend      : List Byte
  /-- The `done` indications given to the host, oldest first (R45, R96; log 7). -/
  doneLog     : List Result
  /-- The values `CFGRD` answered to the host, oldest first (R102; log 7). -/
  readLog     : List Word32
  /-- The number of free values taken so far (log 8, log 9). -/
  draws       : Nat
  /-- The moves the agents make next, in order (log 10). -/
  inputs      : List Input
deriving DecidableEq, Repr

/-- The machine right after reset (R29). The registers R29 leaves unspecified hold 0, the frame buffer holds no value, and
the transport's buffers are empty (logs 1 and 3: DESIGN CHOICE, unsafe; log 2: DEDUCED, safe). -/
def State.reset : State :=
  { phase := .idle
    cur := 0
    curKind := .act
    fb := []
    flen := 0
    acc := 0
    tmr := 0
    res := .sent
    resValid := false
    lastOp := 0
    settleAct := Config.times.act
    settleDeact := Config.times.deact
    settleLoad := Config.times.load
    settleJog := Config.times.jog
    idset := Config.idsetReset
    wire := []
    rxbuf := []
    txpend := []
    doneLog := []
    readLog := []
    draws := 0
    inputs := [] }

end Sys2Proof.Machine
end

