-- ==== Sys2Proof/Machine/Operands.lean ====
section
/-! DEFINITION. The operand forms: the binary32 speed (41_jog.md R76), the bridge's identifier and signed byte (30_encoding.md
R56, 43_bridge.md R106, R108, R109), the move flag of a speed (R86), and the speed code (R77 to R81). A finite speed is an
exact fraction, so every comparison, product and rounding below is exact (R78). -/

namespace Sys2Proof.Machine

/-- What a speed operand denotes (R76): the fraction `num / den` with `den > 0`, an infinity with its sign, or a NaN. -/
inductive Speed where
  | finite (num : Int) (den : Nat)
  | infinite (negative : Bool)
  | nan
deriving DecidableEq, Repr

/-- The sign bit `sg = s[31]` (R76). -/
def signBit (p : Word32) : Bool := p.getLsbD 31

/-- The exponent field `e = s[30:23]` (R76). -/
def exponentField (p : Word32) : Nat := (p.extractLsb' 23 8).toNat

/-- The fraction field `m = s[22:0]` (R76). -/
def fractionField (p : Word32) : Nat := (p.extractLsb' 0 23).toNat

/-- The significand `sig`: `m` where `e = 0`, otherwise `2^23 + m` (R76, R79). -/
def significand (p : Word32) : Nat :=
  if exponentField p = 0 then fractionField p else 2 ^ 23 + fractionField p

/-- `sig` with the sign of the pattern (R76). -/
def signedSignificand (p : Word32) : Int :=
  if signBit p then -(significand p : Int) else (significand p : Int)

/-- The class and exact value of a binary32 pattern (R76): `sig * 2^(-149)` for a zero or a subnormal, `sig * 2^(e - 150)`
for a normal number. -/
def decodeSpeed (p : Word32) : Speed :=
  if exponentField p = 255 then
    if fractionField p = 0 then .infinite (signBit p) else .nan
  else if exponentField p = 0 then .finite (signedSignificand p) (2 ^ 149)
  else if exponentField p < 150 then .finite (signedSignificand p) (2 ^ (150 - exponentField p))
  else .finite (signedSignificand p * 2 ^ (exponentField p - 150)) 1

/-- The speed equals 0.0; both zeros do, an infinity and a NaN do not (R80). -/
def Speed.isZero : Speed → Bool
  | .finite num _ => decide (num = 0)
  | .infinite _   => false
  | .nan          => false

/-- The move flag `MOVEAT` and `BRIDGE` derive from the speed: 0 for a zero, otherwise 1 (R86, R110). -/
def Speed.moveFlag (v : Speed) : Byte := if v.isZero then 0 else 1

/-- `SCALE` (00_scope.md R5). -/
def scale : Nat := 3283

/-- `rnd(num / den)` (R78): the nearest integer, a tie going away from zero, that is
`sign(q) * floor(|q| + 1/2)`. -/
def roundAway (num : Int) (den : Nat) : Int :=
  if num < 0 then -(((2 * num.natAbs + den) / (2 * den) : Nat) : Int)
  else (((2 * num.natAbs + den) / (2 * den) : Nat) : Int)

/-- `R = rnd(|v| * 3283)` of the speed `num / den` (R79, R81). -/
def scaledMagnitude (num : Int) (den : Nat) : Nat := (roundAway (num * scale) den).natAbs

/-- The speed code of a finite speed (R77): the idle code for zero, and two branches whose offsets differ by one. None where
`R > 32767`, when the formula leaves sixteen bits (R81). -/
def finiteSpeedCode (num : Int) (den : Nat) : Option Code :=
  if num = 0 then some 0x7FFF
  else if 32767 < scaledMagnitude num den then none
  else if 0 < num then some (BitVec.ofInt 16 (0x8000 + roundAway (num * scale) den))
  else some (BitVec.ofInt 16 (0x7FFF + roundAway (num * scale) den))

/-- The speed code of a speed; none where the rules leave it unspecified (R77, R80, R81). -/
def speedCode : Speed → Option Code
  | .finite num den => finiteSpeedCode num den
  | .infinite _     => none
  | .nan            => none

/-- The candidate motor id: `IDENT[3:0]` (R56, R106). -/
def candidateId (ident : BitVec 29) : Byte := (ident.extractLsb' 0 4).setWidth 8

/-- `signed8(DATA0)`: the two's complement reading (R8, R56, R108). -/
def signed8 (b : Byte) : Int := b.toInt

/-- `BRIDGE_DIV` (00_scope.md R5). -/
def bridgeDivisor : Nat := 127

/-- `clamp(-1, 1, num / den)` (R8, R109). -/
def clampToUnit (num : Int) (den : Nat) : Speed :=
  if num < -(den : Int) then .finite (-1) 1
  else if (den : Int) < num then .finite 1 1
  else .finite num den

/-- The speed of a bus payload byte: `clamp(-1, 1, signed8(DATA0) / 127)` (R108, R109). -/
def bridgeSpeed (data0 : Byte) : Speed := clampToUnit (signed8 data0) bridgeDivisor

end Sys2Proof.Machine
end

