-- ==== Sys2Proof/Machine/Flags.lean ====
section
/-! DEFINITION. The encodings of the small enumerations, the predicates over the phase, and the status register (10_state.md
R13, R14, R17, R18, R20; 60_exceptions.md R116). The block has no arithmetic condition codes (R17). -/

namespace Sys2Proof.Machine

/-- The encoding of `PHASE` (R13). -/
def Phase.code : Phase → BitVec 3
  | .idle   => 0
  | .clear  => 1
  | .write  => 2
  | .drain  => 3
  | .settle => 4

/-- The encoding of `CUR_KIND` (R14). -/
def Kind.code : Kind → BitVec 2
  | .act   => 0
  | .deact => 1
  | .load  => 2
  | .jog   => 3

/-- The encoding of `RES` (R116). -/
def Result.code : Result → BitVec 2
  | .sent       => 0
  | .shortWrite => 1
  | .ignored    => 2
  | .illegal    => 3

/-- The source's boolean success, `ok = (RES == 0 or RES == 2)` (R20, R116). -/
def Result.ok : Result → Bool
  | .sent       => true
  | .shortWrite => false
  | .ignored    => true
  | .illegal    => false

/-- `BUSY`, the predicate `PHASE != IDLE` (R18). -/
def State.busy (s : State) : Bool := decide (s.phase ≠ .idle)

/-- The command port's `ready` output (R45). -/
def State.ready (s : State) : Bool := !s.busy

/-- `CR.STATUS` as it is read (R20): `BUSY` in bit 0, `RES_VALID` in bit 1, `RES` in bits 3:2, `LAST_OP` in bits 6:4, the
rest zero. -/
def State.statusWord (s : State) : Word32 :=
  (0 : BitVec 25) ++ s.lastOp ++ s.res.code ++ BitVec.ofBool s.resValid ++ BitVec.ofBool s.busy

/-- The result of a frame-emitting command: `SENT` when `ACC = FLEN`, `SHORT_WRITE` otherwise (R96). -/
def State.writeResult (s : State) : Result := if s.acc = s.flen then .sent else .shortWrite

end Sys2Proof.Machine
end

