-- ==== Sys2Proof/Machine/Ops.lean ====
section
/-! DEFINITION. The shared operations: the frame buffer (00_scope.md R8, 20_memory.md R31), the transport primitives
(42_transmit.md R92 to R94), completing a command (R96), and the accept step's two outcomes (R91). The block takes no
exception and returns from none (60_exceptions.md R115, R123): `State.complete` is the one place where an outcome, failures
included, is recorded. -/

namespace Sys2Proof.Machine

/-! ### The frame buffer -/

/-- The number of bytes of `FB` (R15). -/
def fbSize : Nat := 17

/-- The canonical form of a frame buffer: offsets strictly rising, all below 17. -/
abbrev Memory.wf (m : Memory) : Prop :=
  m.Pairwise (fun a b => a.1 < b.1) ∧ ∀ c ∈ m, c.1 < fbSize

/-- The byte at an offset; none where nothing has been written (log 2). -/
def Memory.read : Memory → Nat → Option Byte
  | [], _ => none
  | (b, v) :: m, a => if a = b then some v else Memory.read m a

/-- Put a byte at its place in the rising order, replacing the one that stood there. -/
def Memory.insert : Memory → Nat → Byte → Memory
  | [], a, v => [(a, v)]
  | (b, x) :: m, a, v =>
    if a < b then (a, v) :: (b, x) :: m
    else if a = b then (a, v) :: m
    else (b, x) :: Memory.insert m a v

/-- Write one byte; an offset beyond 16 does not exist (R30). -/
def Memory.writeByte (m : Memory) (a : Nat) (v : Byte) : Except Fault Memory :=
  if a < fbSize then .ok (m.insert a v) else .error (.noSuchOffset a)

/-- Read one byte; an offset beyond 16 does not exist (R30), and one that nothing has written has no value (U12). -/
def Memory.readByte (m : Memory) (a : Nat) : Except Fault Byte :=
  if a < fbSize then
    match m.read a with
    | some v => .ok v
    | none   => .error (.unwrittenByte a)
  else .error (.noSuchOffset a)

/-- The `n` bytes from offset `a` on, in offset order. -/
def Memory.readRange (m : Memory) : (a n : Nat) → Except Fault (List Byte)
  | _, 0 => .ok []
  | a, n + 1 =>
    match m.readByte a with
    | .error e => .error e
    | .ok b =>
      match Memory.readRange m (a + 1) n with
      | .error e => .error e
      | .ok bs => .ok (b :: bs)

/-- The unsigned value of a byte list, most significant byte first. -/
def bigEndian (bs : List Byte) : Nat := bs.foldl (fun v b => v * 256 + b.toNat) 0

/-- `MemRead(a, n)` (R8): the `n`-byte value at offset `a`, most significant byte first. -/
def Memory.memRead (m : Memory) (a n : Nat) : Except Fault Nat :=
  match m.readRange a n with
  | .error e => .error e
  | .ok bs => .ok (bigEndian bs)

/-- `MemWrite(a, n, v)` (R8): store the `n`-byte unsigned value `v` at offset `a`, most significant byte first. -/
def Memory.memWrite (m : Memory) (a : Nat) : (n v : Nat) → Except Fault Memory
  | 0, _ => .ok m
  | n + 1, v =>
    match Memory.memWrite m a n (v / 256) with
    | .error e => .error e
    | .ok m' => m'.writeByte (a + n) (BitVec.ofNat 8 v)

/-- The cells of a byte list laid out from an offset on. -/
def cellsFrom : Nat → List Byte → Memory
  | _, [] => []
  | a, b :: bs => (a, b) :: cellsFrom (a + 1) bs

/-- The frame buffer filled at once with a frame (R31): offsets 0 to `len(f) - 1` hold it, the others have no specified
value (R15; log 2). -/
def Memory.fill (f : List Byte) : Memory := cellsFrom 0 (f.take fbSize)

/-! ### The transport primitives -/

/-- `TxClearRx()` (R92): every byte of `RXBUF` is discarded. -/
def State.txClearRx (s : State) : State := { s with rxbuf := [] }

/-- `TxWrite(f)` (R93, R37) with the transport willing to take `count` bytes: it takes the first `min count (len f)`,
appends them to the wire and to `TXPEND`, and the number goes to `ACC`. -/
def State.txWrite (f : List Byte) (count : Nat) (s : State) : State :=
  { s with
    acc := BitVec.ofNat 5 (min count f.length)
    wire := s.wire ++ f.take count
    txpend := s.txpend ++ f.take count }

/-- What `TxDrain()` waits for: every accepted byte has left the transport (R94). -/
def State.drained (s : State) : Bool := s.txpend.isEmpty

/-- The transport sends the byte at the head of `TXPEND`, if there is one (R27). -/
def State.transportSend (s : State) : State := { s with txpend := s.txpend.tail }

/-- A byte arrives from the link (R27). -/
def State.linkReceive (b : Byte) (s : State) : State := { s with rxbuf := s.rxbuf ++ [b] }

/-! ### Commands -/

/-- `PHASE <- p` (R8). -/
def State.withPhase (p : Phase) (s : State) : State := { s with phase := p }

/-- The state after `n` more free values have been taken (log 8, log 9). -/
def State.afterDraws (n : Nat) (s : State) : State := { s with draws := s.draws + n }

/-- `TMR <- t` (R16). -/
def State.withTimer (t : Word32) (s : State) : State := { s with tmr := t }

/-- The value `v` is handed to the host by `CFGRD` (R102; log 7). -/
def State.answerRead (v : Word32) (s : State) : State := { s with readLog := s.readLog ++ [v] }

/-- `complete(r)` (R96): the result is recorded in `CR.STATUS` and `done` is indicated once. -/
def State.complete (r : Result) (s : State) : State :=
  { s with
    res := r
    resValid := true
    lastOp := opField s.cur
    doneLog := s.doneLog ++ [r] }

/-- `CUR <- w` (R91; log 6). -/
def State.latch (w : Word64) (s : State) : State := { s with cur := w }

/-- A command that emits no frame: it is accepted and completes at once, and the block stays idle (R58, R91, R107). -/
def State.endAtOnce (w : Word64) (r : Result) (s : State) : State := (s.latch w).complete r

/-- The accept step of a command that emits a frame (R91): the word is latched, the whole frame is built, and the phase
becomes CLEAR. -/
def State.launch (w : Word64) (k : Kind) (f : List Byte) (s : State) : State :=
  { s with
    phase := .clear
    cur := w
    curKind := k
    fb := Memory.fill f
    flen := BitVec.ofNat 5 f.length }

/-- A speed code: the specified one, or where the rules give none (R80, R81) the next free value (log 8). The draw is taken
in the accept step (R91). -/
def State.chosenCode (c : Option Code) (s : State) : Code :=
  match c with
  | some code => code
  | none => Config.freeSpeedCode s.draws

/-- The state after choosing a speed code: a free value is used once. -/
def State.afterChoice (c : Option Code) (s : State) : State :=
  match c with
  | some _ => s
  | none => s.afterDraws 1

/-- A command presented on the command port: accepted when the block is idle (R45), otherwise turned away and not
remembered (R41, R100). -/
def whenReady (act : State → State) (s : State) : Host.Outcome State Fault Refusal :=
  if s.phase = .idle then .next (act s) else .next s

/-! ### Control registers -/

/-- Control register `n` as it is read: reserved bits zero, and 0 for a number that does not exist (R19 to R23, R102). -/
def State.readCR (n : Nat) (s : State) : Word32 :=
  match n with
  | 0 => s.statusWord
  | 1 => s.settleAct
  | 2 => s.settleDeact
  | 3 => s.settleLoad
  | 4 => s.settleJog
  | 5 => s.idset.setWidth 32
  | _ => 0

/-- A write to control register `n` of an idle block: register 0 and numbers from 6 on ignore it, `IDSET` keeps the low
sixteen bits (R20, R22, R23, R103). -/
def State.storeCR (n : Nat) (v : Word32) (s : State) : State :=
  match n with
  | 1 => { s with settleAct := v }
  | 2 => { s with settleDeact := v }
  | 3 => { s with settleLoad := v }
  | 4 => { s with settleJog := v }
  | 5 => { s with idset := v.extractLsb' 0 16 }
  | _ => s

/-- A write presented on the configuration port: without effect while the block is busy (R25, R103). -/
def State.writeCR (n : Nat) (v : Word32) (s : State) : State :=
  if s.phase = .idle then s.storeCR n v else s

/-- `settle(kind)` (R98): the settle duration of a kind of frame. -/
def State.settleOf (k : Kind) (s : State) : Word32 :=
  match k with
  | .act   => s.settleAct
  | .deact => s.settleDeact
  | .load  => s.settleLoad
  | .jog   => s.settleJog

end Sys2Proof.Machine
end

