-- ==== Sys2Proof/Machine/Jog.lean ====
section
/-! DEFINITION. `JOG`, `STOP`, `MOVEAT` (41_jog.md R84 to R86), over the one jog that all of them and an accepted `BRIDGE`
perform. -/

namespace Sys2Proof.Machine

/-- Perform a jog for the command word `w` (R84): choose the speed code, build the frame, start the transmission. -/
def performJog (w : Word64) (id : Byte) (v : Speed) (flag : Byte) (s : State) : State :=
  (s.afterChoice (speedCode v)).launch w .jog
    (jogFrame Config.consts id flag (s.chosenCode (speedCode v)))

/-- Perform a move for the command word `w`: a jog whose flag follows the speed (R86, R110). -/
def performMove (w : Word64) (id : Byte) (v : Speed) (s : State) : State :=
  performJog w id v v.moveFlag s

/-- `JOG id, speed, flag` (R84). -/
def execJog (id : Byte) (speed : Word32) (flag : Byte) (rsv : ReservedJ) (s : State) :
    Host.Outcome State Fault Refusal :=
  whenReady (performJog (wordJog id speed flag rsv) id (decodeSpeed speed) flag) s

/-- `STOP id`: `JOG id, +0.0, 0` (R64, R85). -/
def execStop (id : Byte) (rsv : ReservedM) (s : State) : Host.Outcome State Fault Refusal :=
  whenReady (performJog (wordM 4 id rsv) id (decodeSpeed 0x00000000) 0x00) s

/-- `MOVEAT id, speed`: `JOG id, speed, (speed == 0.0 ? 0 : 1)` (R64, R86). -/
def execMoveat (id : Byte) (speed : Word32) (rsv : ReservedMoveAt) (s : State) :
    Host.Outcome State Fault Refusal :=
  whenReady (performMove (wordMoveAt id speed rsv) id (decodeSpeed speed)) s

end Sys2Proof.Machine
end

