-- ==== Sys2Proof/Machine/Bridge.lean ====
section
/-! DEFINITION. `BRIDGE` (43_bridge.md R105 to R113) and the reserved encoding `OP = 7` (30_encoding.md R58). -/

namespace Sys2Proof.Machine

/-- The membership test of R107: `CR.IDSET[cand] == 1` and at least one payload byte. -/
def bridgeAccepts (ident : BitVec 29) (len : Nat) (s : State) : Bool :=
  s.idset.getLsbD (candidateId ident).toNat && decide (1 ≤ len)

/-- What an idle block does with a `BRIDGE` (R105), the checks in the order of R121: a reserved length is illegal (R59), a
bus frame that is no motor command is ignored (R107), any other one moves the candidate motor (R110). -/
def performBridge (w : Word64) (ident : BitVec 29) (len : Nat) (data0 : Byte) (s : State) : State :=
  if 8 < len then s.endAtOnce w .illegal
  else if bridgeAccepts ident len s then performMove w (candidateId ident) (bridgeSpeed data0) s
  else s.endAtOnce w .ignored

/-- `BRIDGE ident, [data0, ...]` (R105). -/
def execBridge (ident : BitVec 29) (len : Nat) (data0 : Byte) (rsv : ReservedB) (s : State) :
    Host.Outcome State Fault Refusal :=
  whenReady (performBridge (wordBridge ident len data0 rsv) ident len data0) s

/-- `OP = 7`: accepted, nothing emitted, completes at once with `ILLEGAL` (R58, R119). -/
def execReserved7 (rsv : BitVec 61) (s : State) : Host.Outcome State Fault Refusal :=
  whenReady (State.endAtOnce (wordReserved7 rsv) .illegal) s

end Sys2Proof.Machine
end

