-- ==== Sys2Proof/Machine/Configuration.lean ====
section
/-! DEFINITION. The configuration accesses `CFGRD` and `CFGWR` (42_transmit.md R102 to R104). -/

namespace Sys2Proof.Machine

/-- `CFGRD n`: the host is answered with control register `n`, busy or idle; the block does not change (R25, R102). -/
def execCfgrd (n : Nat) (s : State) : Host.Outcome State Fault Refusal :=
  .next (s.answerRead (s.readCR n))

/-- `CFGWR n, value` (R103). -/
def execCfgwr (n : Nat) (value : Word32) (s : State) : Host.Outcome State Fault Refusal :=
  .next (s.writeCR n value)

end Sys2Proof.Machine
end

