-- ==== Sys2Proof/Machine/FixedFrames.lean ====
section
/-! DEFINITION. `ACTIVATE`, `DEACTIVATE`, `LOADPARAMS` (40_fixed_frames.md R65 to R70). -/

namespace Sys2Proof.Machine

/-- `ACTIVATE id` (R66). -/
def execActivate (id : Byte) (rsv : ReservedM) (s : State) : Host.Outcome State Fault Refusal :=
  whenReady (State.launch (wordM 0 id rsv) .act (activateFrame Config.consts id)) s

/-- `DEACTIVATE id` (R67). -/
def execDeactivate (id : Byte) (rsv : ReservedM) (s : State) : Host.Outcome State Fault Refusal :=
  whenReady (State.launch (wordM 1 id rsv) .deact (deactivateFrame Config.consts id)) s

/-- `LOADPARAMS id` (R68). -/
def execLoadparams (id : Byte) (rsv : ReservedM) (s : State) : Host.Outcome State Fault Refusal :=
  whenReady (State.launch (wordM 2 id rsv) .load (loadFrame Config.consts id)) s

end Sys2Proof.Machine
end

