-- ==== Sys2Proof/Machine/Dispatch.lean ====
section
/-! DEFINITION. Which meaning each instruction has: one arm per constructor of `Instr`. -/

namespace Sys2Proof.Machine

def exec (i : Instr) (s : State) : Host.Outcome State Fault Refusal :=
  match i with
  | .activate id rsv => Sys2Proof.Machine.execActivate id rsv s
  | .deactivate id rsv => Sys2Proof.Machine.execDeactivate id rsv s
  | .loadparams id rsv => Sys2Proof.Machine.execLoadparams id rsv s
  | .jog id speed flag rsv => Sys2Proof.Machine.execJog id speed flag rsv s
  | .stop id rsv => Sys2Proof.Machine.execStop id rsv s
  | .moveat id speed rsv => Sys2Proof.Machine.execMoveat id speed rsv s
  | .bridge ident len data0 rsv => Sys2Proof.Machine.execBridge ident len data0 rsv s
  | .reserved7 rsv => Sys2Proof.Machine.execReserved7 rsv s
  | .cfgrd n => Sys2Proof.Machine.execCfgrd n s
  | .cfgwr n value => Sys2Proof.Machine.execCfgwr n value s

end Sys2Proof.Machine
end

