-- ==== Sys2Proof/Machine/Transmit.lean ====
section
/-! DEFINITION. The encoder's own steps after a command is accepted: clear, write, drain, settle (42_transmit.md R90 to R101),
the other agents' moves, the reset input (70_reset_and_hazards.md R130, R131), and which move comes next (log 10). -/

namespace Sys2Proof.Machine

/-- The clear step (R92). -/
def clearStep (s : State) : State := s.txClearRx.withPhase .write

/-- The write step (R93): `FB[0..FLEN-1]` is offered once. -/
def writeStep (count : Nat) (s : State) : Host.Outcome State Fault Refusal :=
  match s.fb.readRange 0 s.flen.toNat with
  | .error e => .fault e
  | .ok f => .next ((s.txWrite f count).withPhase .drain)

/-- The drain step (R94): enabled only when the transport reports drained; until then nothing happens (R101; log 12). -/
def drainStep (s : State) : State :=
  if s.drained then (s.withTimer (s.settleOf s.curKind)).withPhase .settle else s

/-- The settle step (R95): a tick while the timer is above zero, then the command completes. -/
def settleStep (s : State) : State :=
  if s.tmr = 0 then (s.complete s.writeResult).withPhase .idle else s.withTimer (s.tmr - 1)

/-- The encoder's own next step, the transport being willing to take `count` bytes should it be the write step (R90). An idle
block does nothing until a command is presented (60_exceptions.md R129). -/
def encoderStep (count : Nat) (s : State) : Host.Outcome State Fault Refusal :=
  match s.phase with
  | .idle   => .next s
  | .clear  => .next (clearStep s)
  | .write  => writeStep count s
  | .drain  => .next (drainStep s)
  | .settle => .next (settleStep s)

/-- The bytes of the frame in flight, none in an idle block (R131). -/
def frameInFlight (s : State) : List Byte :=
  if s.phase = .idle then []
  else match s.fb.readRange 0 s.flen.toNat with
    | .error _ => []
    | .ok f => f

/-- The bytes a reset in mid-write leaves with the transport: in CLEAR and WRITE the first `kept` bytes of the frame in
flight, otherwise none, the accepted bytes being the transport's already (R131; log 13). -/
def bytesOfReset (kept : Nat) (s : State) : List Byte :=
  if s.phase = .clear ∨ s.phase = .write then (frameInFlight s).take kept else []

/-- The reset input (R130, R131): the block takes the values of R29 and emits nothing of its own; of a frame in flight any
first part may be on the wire afterwards; the transport's buffers and what the host has been told are not the block's to
reset (R29). -/
def resetBlock (kept : Nat) (s : State) : State :=
  { State.reset with
    wire := (frameInFlight s).take kept
    rxbuf := s.rxbuf
    txpend := s.txpend ++ bytesOfReset kept s
    doneLog := s.doneLog
    readLog := s.readLog
    draws := s.draws
    inputs := s.inputs }

/-- A move of an agent other than the host's ports. -/
def agentMove (m : AgentMove) (s : State) : Host.Outcome State Fault Refusal :=
  match m with
  | .encoder count   => encoderStep count s
  | .linkByte b      => .next (s.linkReceive b)
  | .transportSends  => .next s.transportSend
  | .reset kept      => .next (resetBlock kept s)

/-- With no move listed the encoder runs on by itself; a write that no listed move answers takes a free count (R37, U1;
log 9). -/
def freeRun (s : State) : Host.Outcome State Fault Refusal :=
  if s.phase = .write then writeStep (Config.freeCount s.draws) (s.afterDraws 1)
  else encoderStep 0 s

/-- The state with another list of moves to come. -/
def State.withInputs (l : List Input) (s : State) : State := { s with inputs := l }

/-- The next listed move, and the state with it taken off the list. -/
def nextInput (s : State) : Option (Input × State) :=
  match s.inputs with
  | [] => none
  | i :: rest => some (i, s.withInputs rest)

/-- Put a move before all the listed ones. -/
def State.pushInput (i : Input) (s : State) : State := s.withInputs (i :: s.inputs)

end Sys2Proof.Machine
end

