-- ==== Sys2Proof/Machine/Step.lean ====
section
/-! DEFINITION. One step: the next listed move is made; an access on a port is decoded and runs; with nothing listed the
encoder runs on (00_scope.md R9, 42_transmit.md R90; log 10). -/

namespace Sys2Proof.Machine

/-- One step of the machine. -/
def step (s : State) : Host.Outcome State Fault Refusal :=
  match nextInput s with
  | none => freeRun s
  | some (.port a, s') => exec (decode a) s'
  | some (.agent m, s') => agentMove m s'

/-- The state in which the host presents, at the next step, the command word that a row's bits stand for. -/
def State.withFetchWord (s : State) (nbits w : Nat) : State :=
  s.pushInput (.port (.command (tableWord nbits w)))

end Sys2Proof.Machine
end

