-- ==== Sys2Proof/Machine/SpeedValue.lean ====
section
/-! DEFINITION. The speed rules over exact rationals, as 41_jog.md R76 to R79 and 43_bridge.md R108, R109 write them. The
machine computes with fractions of integers (Operands.lean); the statements say that the two agree. -/

namespace Sys2Proof.Machine

/-- `(-1)^sg` (R76). -/
def signFactor (p : Word32) : ℚ := if signBit p then -1 else 1

/-- `val(s)` by the table of R76; none for an infinity and a NaN. -/
def val (p : Word32) : Option ℚ :=
  if exponentField p = 255 then none
  else if exponentField p = 0 then some (signFactor p * (fractionField p : ℚ) * (2 : ℚ) ^ (-149 : ℤ))
  else some (signFactor p * ((2 ^ 23 + fractionField p : ℕ) : ℚ) * (2 : ℚ) ^ ((exponentField p : ℤ) - 150))

/-- `rnd(q)` (R78): `floor(q + 1/2)` for `q >= 0` and `-floor(-q + 1/2)` for `q < 0`. -/
def rnd (q : ℚ) : ℤ := if 0 ≤ q then ⌊q + 1 / 2⌋ else -⌊-q + 1 / 2⌋

/-- `clamp(lo, hi, q)` (00_scope.md R8). -/
def clamp (lo hi q : ℚ) : ℚ := if q < lo then lo else if hi < q then hi else q

/-- The formula of R77, before it is put into sixteen bits. -/
def codeFormula (v : ℚ) : ℤ :=
  if v = 0 then 0x7FFF
  else if 0 < v then 0x8000 + rnd (v * 3283)
  else 0x7FFF + rnd (v * 3283)

/-- The integer procedure of R79 for `R = rnd(|v| * 3283)`, with `k = 149` where `e = 0` and `k = 150 - e` otherwise. -/
def integerProcedure (p : Word32) : ℕ :=
  if exponentField p = 0 then (significand p * 3283 + 2 ^ 148) / 2 ^ 149
  else if 150 ≤ exponentField p then significand p * 3283 * 2 ^ (exponentField p - 150)
  else (significand p * 3283 + 2 ^ (149 - exponentField p)) / 2 ^ (150 - exponentField p)

end Sys2Proof.Machine
end

