-- ==== Sys2Proof/Safety.lean ====
section
/-! DEFINITION. What a good state of the machine is, in the terms the statements use: the frame a kind of command emits, and
the invariant every step keeps. -/

namespace Sys2Proof.Machine

/-- `f` is a frame of kind `k`: one of the four formats of 30_encoding.md R51 to R53, for some operands. -/
def IsFrame (k : Kind) (f : List Byte) : Prop :=
  match k with
  | .act   => ∃ id, f = activateFrame Config.consts id
  | .deact => ∃ id, f = deactivateFrame Config.consts id
  | .load  => ∃ id, f = loadFrame Config.consts id
  | .jog   => ∃ id flag code, f = jogFrame Config.consts id flag code

/-- The kind a frame-emitting command resolves to, by its `OP` (10_state.md R14); none for `OP = 7`. -/
def kindOfOp (op : BitVec 3) : Option Kind :=
  match op.toNat with
  | 0 => some .act
  | 1 => some .deact
  | 2 => some .load
  | 7 => none
  | _ => some .jog

/-- The command in the block is consistent: `FB[0..FLEN-1]` is a whole frame of kind `CUR_KIND`, the kind `CUR` resolves to,
and after the write step the wire ends with the `ACC` bytes of it that were accepted. -/
def State.CommandInv (s : State) : Prop :=
  kindOfOp (opField s.cur) = some s.curKind ∧
  ∃ f, IsFrame s.curKind f ∧ s.fb = Memory.fill f ∧ s.flen = BitVec.ofNat 5 f.length ∧
    ((s.phase = .drain ∨ s.phase = .settle) →
      s.acc.toNat ≤ f.length ∧ ∃ before, s.wire = before ++ f.take s.acc.toNat)

/-- The invariant of the machine: the frame buffer is in canonical form, the status fields are 0 until a command has
completed (10_state.md R20), and while the block is busy its command is consistent. -/
def State.Inv (s : State) : Prop :=
  Memory.wf s.fb ∧
  (s.resValid = false → s.res = .sent ∧ s.lastOp = 0) ∧
  (s.phase ≠ .idle → s.CommandInv)

/-- Both outcomes are next states, related by `R`. -/
def BothNext (R : State → State → Prop) (o o' : Host.Outcome State Fault Refusal) : Prop :=
  ∃ t t', o = .next t ∧ o' = .next t' ∧ R t t'

/-- An outcome with its next state, if it is one, seen through `f`. -/
def mapNext (f : State → State) : Host.Outcome State Fault Refusal → Host.Outcome State Fault Refusal
  | .next t    => .next (f t)
  | .fault e   => .fault e
  | .refused r => .refused r

/-- Two states agree in everything but `CUR`. -/
def SameButCur (t t' : State) : Prop := t = { t' with cur := t.cur }

/-- Two states agree in everything but the bits of `CUR` above `OP`. -/
def SameButCurOperands (t t' : State) : Prop := SameButCur t t' ∧ opField t.cur = opField t'.cur

/-- The bits of a command word that its format leaves reserved (30_encoding.md R46), by `OP`. -/
def reservedMask (op : BitVec 3) : Word64 :=
  match op.toNat with
  | 3 => 0x00000000FF0000F8
  | 5 => 0x00000000FFFF00F8
  | 6 => 0xE0000000FFFF0008
  | 7 => 0xFFFFFFFFFFFFFFF8
  | _ => 0xFFFFFFFFFFFF00F8

/-- The next listed move is not the reset input. -/
def State.notReset (s : State) : Prop :=
  ∀ kept rest, s.inputs ≠ .agent (.reset kept) :: rest

/-- The encoder takes its own step next, with `rest` the moves left after it: its move is the first one listed, or nothing is
listed and it runs on (log 10). -/
def State.encoderNext (s : State) (rest : List Input) : Prop :=
  (∃ count, s.inputs = .agent (.encoder count) :: rest) ∨ (s.inputs = [] ∧ rest = [])

end Sys2Proof.Machine
end

