-- ==== Sys2Proof/Certificates/Slice0/Obligations.lean ====
section
/-! DEFINITION. The statements for the provers, from the numbered rules of spec/. OBLIGATIONS.json lists them. -/

open Sys2Proof Sys2Proof.Machine

/-! ### Reset and the control registers -/

/-- What reset leaves where R29 gives a value: idle, `CR.STATUS = 0`, the settle registers at the parameters, ordered as R21
asks, `CR.IDSET = 0x7000`, an empty wire. -/
def Obligations.ResetLeavesTheGivenValues : Prop :=
  State.reset.phase = .idle ∧ State.reset.readCR 0 = 0 ∧
  State.reset.readCR 1 = Config.times.act ∧ State.reset.readCR 2 = Config.times.deact ∧
  State.reset.readCR 3 = Config.times.load ∧ State.reset.readCR 4 = Config.times.jog ∧
  State.reset.readCR 5 = 0x7000 ∧ State.reset.wire = [] ∧
  max Config.times.deact.toNat Config.times.jog.toNat < min Config.times.act.toNat Config.times.load.toNat

/-- R20 whole: the bits of `CR.STATUS`, what they are before and after a completion and that they stay until the next one, that
a write is ignored and that the configuration accesses do not change it, and the source's boolean. -/
def Obligations.StatusRegisterBits : Prop :=
  (∀ s : State,
    (s.readCR 0).getLsbD 0 = decide (s.phase ≠ .idle) ∧
    (s.readCR 0).getLsbD 1 = s.resValid ∧
    (s.readCR 0).extractLsb' 2 2 = s.res.code ∧
    (s.readCR 0).extractLsb' 4 3 = s.lastOp ∧
    (s.readCR 0).extractLsb' 7 25 = 0) ∧
  (∀ s : State, s.Inv → s.resValid = false →
    (s.readCR 0).extractLsb' 2 2 = 0 ∧ (s.readCR 0).extractLsb' 4 3 = 0) ∧
  (State.reset.readCR 0).getLsbD 1 = false ∧
  (∀ (s : State) (r : Result),
    ((s.complete r).readCR 0).getLsbD 1 = true ∧
    ((s.complete r).readCR 0).extractLsb' 2 2 = r.code ∧
    ((s.complete r).readCR 0).extractLsb' 4 3 = s.cur.extractLsb' 0 3) ∧
  (∀ s t : State, s.notReset → step s = .next t →
    (t.readCR 0).extractLsb' 1 6 = (s.readCR 0).extractLsb' 1 6 ∨
    ∃ r : Result, t.doneLog = s.doneLog ++ [r] ∧ (t.readCR 0).getLsbD 1 = true ∧
      (t.readCR 0).extractLsb' 2 2 = r.code ∧ (t.readCR 0).extractLsb' 4 3 = t.cur.extractLsb' 0 3) ∧
  (∀ (s : State) (v : Word32), exec (.cfgwr 0 v) s = .next s) ∧
  (∀ (s t : State) (n : Nat) (v : Word32),
    exec (.cfgrd n) s = .next t ∨ exec (.cfgwr n v) s = .next t → t.readCR 0 = s.readCR 0) ∧
  (Result.sent.code = 0 ∧ Result.shortWrite.code = 1 ∧ Result.ignored.code = 2 ∧ Result.illegal.code = 3) ∧
  (∀ r : Result, r.ok = true ↔ r.code = 0 ∨ r.code = 2)

/-- R102: `CFGRD n` answers the register, busy or idle, and changes nothing else; after reset `CFGRD 5` answers
`0x00007000`. -/
def Obligations.CfgrdAnswersTheRegister : Prop :=
  (∀ (n : Nat) (s : State),
    exec (.cfgrd n) s = .next { s with
      readLog := s.readLog ++
        [if n = 0 then s.statusWord
         else if n = 1 then s.settleAct
         else if n = 2 then s.settleDeact
         else if n = 3 then s.settleLoad
         else if n = 4 then s.settleJog
         else if n = 5 then s.idset.setWidth 32
         else 0] }) ∧
  exec (.cfgrd 5) State.reset = .next { State.reset with readLog := [0x00007000] }

/-- R103: `CFGWR n, value` writes registers 1 to 5 of an idle block, `IDSET` keeping the low sixteen bits, and does nothing
for register 0, for numbers from 6 on, or while the block is busy. -/
def Obligations.CfgwrWritesOnlyWhenIdle : Prop :=
  ∀ (n : Nat) (v : Word32) (s : State),
    (s.phase = .idle → exec (.cfgwr n v) s = .next
      (if n = 1 then { s with settleAct := v }
       else if n = 2 then { s with settleDeact := v }
       else if n = 3 then { s with settleLoad := v }
       else if n = 4 then { s with settleJog := v }
       else if n = 5 then { s with idset := v.extractLsb' 0 16 }
       else s)) ∧
    (s.phase ≠ .idle → exec (.cfgwr n v) s = .next s)

/-- R23: register numbers from 6 on read as 0 and ignore writes. -/
def Obligations.AbsentRegistersReadZeroIgnoreWrites : Prop :=
  ∀ (n : Nat) (v : Word32) (s : State), 6 ≤ n →
    exec (.cfgrd n) s = .next { s with readLog := s.readLog ++ [0] } ∧ exec (.cfgwr n v) s = .next s

/-- R104, R121: a write to `IDSET` of an idle block decides whether the `BRIDGE` presented after it emits a frame. -/
def Obligations.ConfigWriteIsSeenByTheNextBridge : Prop :=
  ∀ (v : Word32) (ident : BitVec 29) (len : Nat) (d : Byte) (rsv : ReservedB) (s : State), s.phase = .idle →
    ∃ t u, exec (.cfgwr 5 v) s = .next t ∧ exec (.bridge ident len d rsv) t = .next u ∧
      (u.phase = .clear ↔ v.getLsbD (ident.extractLsb' 0 4).toNat = true ∧ 1 ≤ len ∧ len ≤ 8)

/-! ### Encoding -/

/-- Every well-formed instruction is what its own encoding decodes to. -/
def Obligations.DecodeOfEncode : Prop :=
  ∀ i : Instr, WellFormed i = true → decode (encode i) = i

/-- Every access on a port decodes to a well-formed instruction whose encoding it is: no bit of a command word is lost. -/
def Obligations.EncodeOfDecode : Prop :=
  ∀ a : PortAccess, WellFormed (decode a) = true ∧ encode (decode a) = a

/-- Command words of 95_test_vectors.md (F1, F5, F8, J2, J4, J5, B1, W8) decode to the commands they stand for. -/
def Obligations.DecodesTheSampleWords : Prop :=
  decode (.command 0x0000000000000C00) = .activate 0x0C ⟨0, 0⟩ ∧
  decode (.command 0x0000000000000D01) = .deactivate 0x0D ⟨0, 0⟩ ∧
  decode (.command 0x0000000000000D02) = .loadparams 0x0D ⟨0, 0⟩ ∧
  decode (.command 0x3F80000000010C03) = .jog 0x0C 0x3F800000 0x01 ⟨0, 0⟩ ∧
  decode (.command 0x0000000000000D04) = .stop 0x0D ⟨0, 0⟩ ∧
  decode (.command 0x3F00000000000E05) = .moveat 0x0E 0x3F000000 ⟨0, 0⟩ ∧
  decode (.command 0x0000001C00004016) = .bridge 0x1C 1 0x40 ⟨0, 0, 0⟩ ∧
  decode (.command 0x0000000000000007) = .reserved7 0

/-- R57: bits 2:0 alone select the command. -/
def Obligations.OpFieldSelectsTheCommand : Prop :=
  ∀ w : Word64,
    (w.extractLsb' 0 3 = 0 ↔ ∃ id r, decode (.command w) = .activate id r) ∧
    (w.extractLsb' 0 3 = 1 ↔ ∃ id r, decode (.command w) = .deactivate id r) ∧
    (w.extractLsb' 0 3 = 2 ↔ ∃ id r, decode (.command w) = .loadparams id r) ∧
    (w.extractLsb' 0 3 = 3 ↔ ∃ id p f r, decode (.command w) = .jog id p f r) ∧
    (w.extractLsb' 0 3 = 4 ↔ ∃ id r, decode (.command w) = .stop id r) ∧
    (w.extractLsb' 0 3 = 5 ↔ ∃ id p r, decode (.command w) = .moveat id p r) ∧
    (w.extractLsb' 0 3 = 6 ↔ ∃ x n d r, decode (.command w) = .bridge x n d r) ∧
    (w.extractLsb' 0 3 = 7 ↔ ∃ r, decode (.command w) = .reserved7 r)

/-- R60: a command with reserved bits set behaves as the same command with them clear; only the latched word differs. -/
def Obligations.ReservedBitsAreIgnored : Prop :=
  ∀ (w : Word64) (s : State),
    BothNext SameButCurOperands (exec (decode (.command w)) s)
      (exec (decode (.command (w &&& ~~~ reservedMask (w.extractLsb' 0 3)))) s)

/-- R14, R60: of the latched word only `OP` is ever read: two states that differ in the other bits of `CUR` step alike. -/
def Obligations.LatchedOperandsAreNeverRead : Prop :=
  ∀ (s : State) (w : Word64), opField w = opField s.cur →
    mapNext (fun t => { t with cur := (opField t.cur).setWidth 64 }) (step { s with cur := w }) =
    mapNext (fun t => { t with cur := (opField t.cur).setWidth 64 }) (step s)

/-! ### The accept step, one command after the other -/

/-- R51: the two 10-byte frames, built whole by the accept step of an idle block, every other field as before. -/
def Obligations.TenByteFramesAreBuilt : Prop :=
  ∀ (id : Byte) (rsv : ReservedM) (s : State), s.phase = .idle →
    (∃ m, exec (.activate id rsv) s = .next { s with
        phase := .clear, cur := wordM 0 id rsv, curKind := .act, fb := m, flen := 10 } ∧
      ∀ a, Memory.read m a = ([0x41, 0x54, Config.consts.opcAct, Config.consts.addr0, Config.consts.addr1, id,
        Config.consts.act0, Config.consts.act1, 0x0D, 0x0A] : List Byte)[a]?) ∧
    (∃ m, exec (.deactivate id rsv) s = .next { s with
        phase := .clear, cur := wordM 1 id rsv, curKind := .deact, fb := m, flen := 10 } ∧
      ∀ a, Memory.read m a = ([0x41, 0x54, Config.consts.opcDeact, Config.consts.addr0, Config.consts.addr1, id,
        Config.consts.deact0, Config.consts.deact1, 0x0D, 0x0A] : List Byte)[a]?) ∧
    (Config.consts.deact0, Config.consts.deact1) ≠ (Config.consts.act0, Config.consts.act1)

/-- R52: the frame of `LOADPARAMS`. -/
def Obligations.LoadFrameIsBuilt : Prop :=
  ∀ (id : Byte) (rsv : ReservedM) (s : State), s.phase = .idle →
    ∃ m, exec (.loadparams id rsv) s = .next { s with
        phase := .clear, cur := wordM 2 id rsv, curKind := .load, fb := m, flen := 17 } ∧
      ∀ a, Memory.read m a = ([0x41, 0x54, Config.consts.opcLoad, Config.consts.addr0, Config.consts.addr1, id,
        0x08, Config.consts.psel, 0, 0, 0, 0, 0, 0, 0, 0x0D, 0x0A] : List Byte)[a]?

/-- R53, R77, R84: the frame of `JOG` for a finite speed whose code fits sixteen bits. -/
def Obligations.JogFrameHoldsTheSpeedCode : Prop :=
  ∀ (id : Byte) (p : Word32) (flag : Byte) (rsv : ReservedJ) (s : State) (v : ℚ),
    s.phase = .idle → val p = some v → rnd (|v| * 3283) ≤ 32767 →
    ∃ m, exec (.jog id p flag rsv) s = .next { s with
        phase := .clear, cur := wordJog id p flag rsv, curKind := .jog, fb := m, flen := 17 } ∧
      ∀ a, Memory.read m a = ([0x41, 0x54, Config.consts.opcJog, Config.consts.addr0, Config.consts.addr1, id,
        0x08, 0x05, 0x70, Config.consts.jf0, Config.consts.jf1, Config.consts.jf2, flag,
        (BitVec.ofInt 16 (codeFormula v)).extractLsb' 8 8, (BitVec.ofInt 16 (codeFormula v)).extractLsb' 0 8,
        0x0D, 0x0A] : List Byte)[a]?

/-- R80, R81, R84: for a NaN, an infinity, or a speed whose code leaves sixteen bits, `JOG` sends the frame with a free speed
code (log 8); the rest is as usual. -/
def Obligations.JogFrameWithFreeSpeedCode : Prop :=
  ∀ (id : Byte) (p : Word32) (flag : Byte) (rsv : ReservedJ) (s : State),
    s.phase = .idle → (∀ v, val p = some v → 32767 < rnd (|v| * 3283)) →
    ∃ m, exec (.jog id p flag rsv) s = .next { s with
        phase := .clear, cur := wordJog id p flag rsv, curKind := .jog, fb := m, flen := 17,
        draws := s.draws + 1 } ∧
      ∀ a, Memory.read m a = ([0x41, 0x54, Config.consts.opcJog, Config.consts.addr0, Config.consts.addr1, id,
        0x08, 0x05, 0x70, Config.consts.jf0, Config.consts.jf1, Config.consts.jf2, flag,
        (Config.freeSpeedCode s.draws).extractLsb' 8 8, (Config.freeSpeedCode s.draws).extractLsb' 0 8,
        0x0D, 0x0A] : List Byte)[a]?

/-- R54: the speed code lies at offsets 13 and 14, most significant byte first: `MemRead` there gives it, and
`MemWrite(13, 2, code)` leaves the frame buffer as it is. -/
def Obligations.SpeedCodeIsBigEndianAtThirteen : Prop :=
  ∀ (id : Byte) (p : Word32) (flag : Byte) (rsv : ReservedJ) (s : State), s.phase = .idle →
    ∃ t, exec (.jog id p flag rsv) s = .next t ∧ ∃ code : Code,
      (∀ v, val p = some v → rnd (|v| * 3283) ≤ 32767 → (code.toNat : ℤ) = codeFormula v) ∧
      Memory.read t.fb 13 = some (code.extractLsb' 8 8) ∧ Memory.read t.fb 14 = some (code.extractLsb' 0 8) ∧
      Memory.memRead t.fb 13 2 = .ok code.toNat ∧ Memory.memWrite t.fb 13 2 code.toNat = .ok t.fb

/-- R85: the frame of `STOP`. -/
def Obligations.StopFrameIsBuilt : Prop :=
  ∀ (id : Byte) (rsv : ReservedM) (s : State), s.phase = .idle →
    ∃ m, exec (.stop id rsv) s = .next { s with
        phase := .clear, cur := wordM 4 id rsv, curKind := .jog, fb := m, flen := 17 } ∧
      ∀ a, Memory.read m a = ([0x41, 0x54, Config.consts.opcJog, Config.consts.addr0, Config.consts.addr1, id,
        0x08, 0x05, 0x70, Config.consts.jf0, Config.consts.jf1, Config.consts.jf2, 0x00, 0x7F, 0xFF,
        0x0D, 0x0A] : List Byte)[a]?

/-- R86: the frame of `MOVEAT` for a finite speed whose code fits sixteen bits; the flag is 0 exactly for a zero speed. -/
def Obligations.MoveAtFrameDerivesTheFlag : Prop :=
  ∀ (id : Byte) (p : Word32) (rsv : ReservedMoveAt) (s : State) (v : ℚ),
    s.phase = .idle → val p = some v → rnd (|v| * 3283) ≤ 32767 →
    ∃ m, exec (.moveat id p rsv) s = .next { s with
        phase := .clear, cur := wordMoveAt id p rsv, curKind := .jog, fb := m, flen := 17 } ∧
      ∀ a, Memory.read m a = ([0x41, 0x54, Config.consts.opcJog, Config.consts.addr0, Config.consts.addr1, id,
        0x08, 0x05, 0x70, Config.consts.jf0, Config.consts.jf1, Config.consts.jf2, if v = 0 then 0 else 1,
        (BitVec.ofInt 16 (codeFormula v)).extractLsb' 8 8, (BitVec.ofInt 16 (codeFormula v)).extractLsb' 0 8,
        0x0D, 0x0A] : List Byte)[a]?

/-- R80, R86: for a NaN, an infinity, or a code beyond sixteen bits, `MOVEAT` sends flag 1 and a free speed code (log 8). -/
def Obligations.MoveAtFrameWithFreeSpeedCode : Prop :=
  ∀ (id : Byte) (p : Word32) (rsv : ReservedMoveAt) (s : State),
    s.phase = .idle → (∀ v, val p = some v → 32767 < rnd (|v| * 3283)) →
    ∃ m, exec (.moveat id p rsv) s = .next { s with
        phase := .clear, cur := wordMoveAt id p rsv, curKind := .jog, fb := m, flen := 17,
        draws := s.draws + 1 } ∧
      ∀ a, Memory.read m a = ([0x41, 0x54, Config.consts.opcJog, Config.consts.addr0, Config.consts.addr1, id,
        0x08, 0x05, 0x70, Config.consts.jf0, Config.consts.jf1, Config.consts.jf2, 0x01,
        (Config.freeSpeedCode s.draws).extractLsb' 8 8, (Config.freeSpeedCode s.draws).extractLsb' 0 8,
        0x0D, 0x0A] : List Byte)[a]?

/-- R105 to R110: a `BRIDGE` whose candidate is supported and whose frame has a payload emits the move of that candidate at
the clamped speed, whatever the higher identifier bits. -/
def Obligations.BridgeMovesTheCandidate : Prop :=
  ∀ (ident : BitVec 29) (len : Nat) (d : Byte) (rsv : ReservedB) (s : State),
    s.phase = .idle → 1 ≤ len → len ≤ 8 → s.idset.getLsbD (ident.extractLsb' 0 4).toNat = true →
    ∃ m, exec (.bridge ident len d rsv) s = .next { s with
        phase := .clear, cur := wordBridge ident len d rsv, curKind := .jog, fb := m, flen := 17 } ∧
      ∀ a, Memory.read m a = ([0x41, 0x54, Config.consts.opcJog, Config.consts.addr0, Config.consts.addr1,
        (ident.extractLsb' 0 4).setWidth 8, 0x08, 0x05, 0x70, Config.consts.jf0, Config.consts.jf1, Config.consts.jf2,
        if d = 0 then 0 else 1,
        (BitVec.ofInt 16 (codeFormula (clamp (-1) 1 ((d.toInt : ℚ) / 127)))).extractLsb' 8 8,
        (BitVec.ofInt 16 (codeFormula (clamp (-1) 1 ((d.toInt : ℚ) / 127)))).extractLsb' 0 8,
        0x0D, 0x0A] : List Byte)[a]?

/-- R107: a `BRIDGE` whose candidate is not supported, or that has no payload byte, completes at once with IGNORED, a
success; nothing else changes but the latched word. -/
def Obligations.BridgeIgnoresOtherBusFrames : Prop :=
  Result.ignored.code = 2 ∧ Result.ignored.ok = true ∧
  ∀ (ident : BitVec 29) (len : Nat) (d : Byte) (rsv : ReservedB) (s : State),
    s.phase = .idle → len ≤ 8 → (s.idset.getLsbD (ident.extractLsb' 0 4).toNat = false ∨ len = 0) →
    ∃ c, exec (.bridge ident len d rsv) s = .next { s with
        cur := c, res := .ignored, resValid := true, lastOp := 6, doneLog := s.doneLog ++ [.ignored] }

/-- R58, R59: `OP = 7` and a `BRIDGE` of 9 or more payload bytes complete at once with ILLEGAL, a failure; nothing else
changes but the latched word. -/
def Obligations.ReservedEncodingsCompleteIllegal : Prop :=
  Result.illegal.code = 3 ∧ Result.illegal.ok = false ∧
  (∀ (rsv : BitVec 61) (s : State), s.phase = .idle →
    ∃ c, exec (.reserved7 rsv) s = .next { s with
      cur := c, res := .illegal, resValid := true, lastOp := 7, doneLog := s.doneLog ++ [.illegal] }) ∧
  (∀ (ident : BitVec 29) (len : Nat) (d : Byte) (rsv : ReservedB) (s : State), s.phase = .idle → 9 ≤ len → len ≤ 15 →
    ∃ c, exec (.bridge ident len d rsv) s = .next { s with
      cur := c, res := .illegal, resValid := true, lastOp := 6, doneLog := s.doneLog ++ [.illegal] })

/-- R41, R100: a command presented while the block is busy is turned away: nothing changes. -/
def Obligations.BusyBlockTurnsCommandsAway : Prop :=
  ∀ (w : Word64) (s : State), s.phase ≠ .idle → exec (decode (.command w)) s = .next s

/-- R64: `STOP id` is `JOG id, +0.0, 0` and `MOVEAT id, speed` is `JOG id, speed, f` with `f = 0` exactly when the speed
equals 0.0, but for the latched word, which keeps the `OP` that was presented. -/
def Obligations.StopAndMoveAtAreJogs : Prop :=
  (∀ (id : Byte) (r : ReservedM) (q : ReservedJ) (s : State), s.phase = .idle →
    BothNext (fun t t' => SameButCur t t' ∧ opField t.cur = 4)
      (exec (.stop id r) s) (exec (.jog id 0x00000000 0x00 q) s)) ∧
  (∀ (id : Byte) (p : Word32) (r : ReservedMoveAt) (q : ReservedJ) (s : State), s.phase = .idle →
    BothNext (fun t t' => SameButCur t t' ∧ opField t.cur = 5)
      (exec (.moveat id p r) s) (exec (.jog id p (if val p = some 0 then 0x00 else 0x01) q) s))

/-- R69: two frames of one of these commands have length 10, 10, 17, and differ at offset 5 and nowhere else, where they
hold the motor id. -/
def Obligations.FixedFramesVaryInTheIdOnly : Prop :=
  ∀ (id id' : Byte) (r r' : ReservedM) (s s' : State), s.phase = .idle → s'.phase = .idle →
    BothNext (fun t t' => t.flen = 10 ∧ t'.flen = 10 ∧ Memory.read t.fb 5 = some id ∧ Memory.read t'.fb 5 = some id' ∧
      ∀ a, a ≠ 5 → Memory.read t.fb a = Memory.read t'.fb a) (exec (.activate id r) s) (exec (.activate id' r') s') ∧
    BothNext (fun t t' => t.flen = 10 ∧ t'.flen = 10 ∧ Memory.read t.fb 5 = some id ∧ Memory.read t'.fb 5 = some id' ∧
      ∀ a, a ≠ 5 → Memory.read t.fb a = Memory.read t'.fb a) (exec (.deactivate id r) s) (exec (.deactivate id' r') s') ∧
    BothNext (fun t t' => t.flen = 17 ∧ t'.flen = 17 ∧ Memory.read t.fb 5 = some id ∧ Memory.read t'.fb 5 = some id' ∧
      ∀ a, a ≠ 5 → Memory.read t.fb a = Memory.read t'.fb a) (exec (.loadparams id r) s) (exec (.loadparams id' r') s')

/-- R70: only `BRIDGE` consults `CR.IDSET`: the six motor commands run alike under any set. -/
def Obligations.OnlyBridgeConsultsTheIdSet : Prop :=
  ∀ (w : Word64) (m : BitVec 16) (s : State), w.extractLsb' 0 3 ≠ 6 →
    exec (decode (.command w)) { s with idset := m } =
      mapNext (fun t => { t with idset := m }) (exec (decode (.command w)) s)

/-- R10, R132: what an accepted command builds depends on its operands, `CR.IDSET` and the free value it may draw (by the draw
counter: the model's choice, log 8), and on nothing an earlier command left. That `CUR` takes the word also of a command that
emits no frame is the model's reading of R91 against R14 (log 6). -/
def Obligations.FrameDependsOnOperandsOnly : Prop :=
  ∀ (w : Word64) (s s' : State), s.phase = .idle → s'.phase = .idle → s.idset = s'.idset → s.draws = s'.draws →
    BothNext (fun t t' => t.phase = t'.phase ∧ t.cur = t'.cur ∧
        (t.phase = .clear → t.fb = t'.fb ∧ t.flen = t'.flen ∧ t.curKind = t'.curKind))
      (exec (decode (.command w)) s) (exec (decode (.command w)) s')

/-! ### The speed code -/

/-- R77, R81: for a finite speed the block's code is the formula's value over exact rationals wherever that fits sixteen
bits, and is left unspecified exactly where it does not. -/
def Obligations.SpeedCodeIsTheFormula : Prop :=
  ∀ (p : Word32) (v : ℚ), val p = some v →
    (rnd (|v| * 3283) ≤ 32767 →
      ∃ c, speedCode (decodeSpeed p) = some c ∧ (c.toNat : ℤ) = codeFormula v) ∧
    (32767 < rnd (|v| * 3283) → speedCode (decodeSpeed p) = none)

/-- R80: negative zero is a zero (code `0x7FFF`, move flag 0); an infinity and a NaN have no specified code and move
flag 1. -/
def Obligations.SpecialSpeedPatterns : Prop :=
  (decodeSpeed 0x80000000).isZero = true ∧ speedCode (decodeSpeed 0x80000000) = some 0x7FFF ∧
  (decodeSpeed 0x80000000).moveFlag = 0 ∧
  ∀ p : Word32, val p = none →
    speedCode (decodeSpeed p) = none ∧ (decodeSpeed p).isZero = false ∧ (decodeSpeed p).moveFlag = 1

/-- R79: the integer procedure gives `rnd(|v| * 3283)`, and the code follows from it as the rule says. -/
def Obligations.IntegerProcedureAgrees : Prop :=
  ∀ (p : Word32) (v : ℚ), val p = some v →
    (integerProcedure p : ℤ) = rnd (|v| * 3283) ∧
    (integerProcedure p ≤ 32767 → ∃ c, speedCode (decodeSpeed p) = some c ∧
      c.toNat = if significand p = 0 then 0x7FFF
        else if signBit p then 0x7FFF - integerProcedure p else 0x8000 + integerProcedure p)

/-- R82 (b): a positive speed and its negation have codes that differ by `2 * rnd(x * 3283) + 1`. -/
def Obligations.SpeedCodesAreOneUnitAsymmetric : Prop :=
  ∀ (p : Word32) (x : ℚ), val p = some x → 0 < x → rnd (x * 3283) ≤ 32767 →
    ∃ c c', speedCode (decodeSpeed p) = some c ∧ speedCode (decodeSpeed (p ^^^ 0x80000000)) = some c' ∧
      (c.toNat : ℤ) - c'.toNat = 2 * rnd (x * 3283) + 1

/-- R82 (c), (d): the code does not fall as the speed rises, and rises strictly between speeds of one sign that are at least
1/3283 apart. -/
def Obligations.SpeedCodeIsMonotone : Prop :=
  ∀ (p p' : Word32) (v v' : ℚ) (c c' : Code), val p = some v → val p' = some v' →
    speedCode (decodeSpeed p) = some c → speedCode (decodeSpeed p') = some c' → v ≤ v' →
    c.toNat ≤ c'.toNat ∧ ((0 < v ∨ v' < 0) → 1 / 3283 ≤ v' - v → c.toNat < c'.toNat)

/-- R82 (a): speeds inside the contract have codes `0x8000` to `0x8CD3` in the positive branch and `0x732C` to `0x7FFF` in
the negative one, the ends being the codes of 1.0 and -1.0. -/
def Obligations.ContractSpeedsHaveCodesInRange : Prop :=
  speedCode (decodeSpeed 0x3F800000) = some 0x8CD3 ∧ speedCode (decodeSpeed 0xBF800000) = some 0x732C ∧
  ∀ (p : Word32) (v : ℚ), val p = some v → |v| ≤ 1 →
    ∃ c, speedCode (decodeSpeed p) = some c ∧ (v = 0 → c.toNat = 0x7FFF) ∧
      (0 < v → 0x8000 ≤ c.toNat ∧ c.toNat ≤ 0x8CD3) ∧ (v < 0 → 0x732C ≤ c.toNat ∧ c.toNat ≤ 0x7FFF)

/-- R83: decoding a code gives the speed back to within half a code unit. -/
def Obligations.SpeedCodeRoundTripsWithinHalfAUnit : Prop :=
  ∀ (p : Word32) (v : ℚ) (c : Code), val p = some v → speedCode (decodeSpeed p) = some c →
    (0 < v → 0x8000 ≤ c.toNat ∧ |((c.toNat : ℚ) - 0x8000) / 3283 - v| ≤ 1 / 6566) ∧
    (v < 0 → c.toNat ≤ 0x7FFF ∧ |((c.toNat : ℚ) - 0x7FFF) / 3283 - v| ≤ 1 / 6566)

/-- R109: the clamp changes exactly one payload byte, `0x80`, whose speed becomes -1; the block's speed of a payload byte is
that clamped quotient, zero exactly for byte 0. -/
def Obligations.BridgeClampsOnlyTheLowestByte : Prop :=
  ∀ d : Byte,
    clamp (-1) 1 ((d.toInt : ℚ) / 127) = (if d = 0x80 then -1 else (d.toInt : ℚ) / 127) ∧
    ((d.toInt : ℚ) / 127 ≠ clamp (-1) 1 ((d.toInt : ℚ) / 127) ↔ d = 0x80) ∧
    (∃ num den, bridgeSpeed d = .finite num den ∧ 0 < den ∧ (num : ℚ) / den = clamp (-1) 1 ((d.toInt : ℚ) / 127)) ∧
    ((bridgeSpeed d).isZero = true ↔ d = 0) ∧
    speedCode (bridgeSpeed 0x80) = speedCode (bridgeSpeed 0x81)

/-- R106: only the low nibble of the identifier counts; `0x0C`, `0x1C`, `0x7FC` and `0x1FFFFFFC` give candidate
`0x0C`. -/
def Obligations.BridgeUsesTheLowNibbleOnly : Prop :=
  (∀ (x y : BitVec 29) (len : Nat) (d : Byte) (r : ReservedB) (s : State), x.extractLsb' 0 4 = y.extractLsb' 0 4 →
    BothNext SameButCurOperands (exec (.bridge x len d r) s) (exec (.bridge y len d r) s)) ∧
  (∀ x : BitVec 29, (candidateId x).toNat = x.toNat % 16) ∧
  candidateId 0x0C = 0x0C ∧ candidateId 0x1C = 0x0C ∧ candidateId 0x7FC = 0x0C ∧ candidateId 0x1FFFFFFC = 0x0C

/-! ### The transmission contract -/

/-- R92: the clear step empties the inbound buffer, be it listed or the encoder running on with nothing listed (log 10). -/
def Obligations.ClearStepEmptiesTheInboundBuffer : Prop :=
  ∀ (s : State) (rest : List Input), s.phase = .clear → s.encoderNext rest →
    step s = .next { s with rxbuf := [], phase := .write, inputs := rest }

/-- R37, R93: the write step offers the frame once; the transport takes the first `min n FLEN` bytes, onto the wire and into
`TXPEND`, and the count goes to `ACC`. -/
def Obligations.WriteStepAppendsTheAcceptedBytes : Prop :=
  ∀ (s : State) (f : List Byte) (n : Nat) (rest : List Input),
    s.phase = .write → f.length ≤ 17 → s.fb = Memory.fill f → s.flen = BitVec.ofNat 5 f.length →
    s.inputs = .agent (.encoder n) :: rest →
    ∃ count, count = min n f.length ∧
      step s = .next { s with
        acc := BitVec.ofNat 5 count, wire := s.wire ++ f.take count, txpend := s.txpend ++ f.take count,
        phase := .drain, inputs := rest }

/-- R37, U1: with no answer listed the count is a free value (log 9). -/
def Obligations.UnscheduledWriteTakesAFreeCount : Prop :=
  ∀ (s : State) (f : List Byte), s.phase = .write → f.length ≤ 17 → s.fb = Memory.fill f →
    s.flen = BitVec.ofNat 5 f.length → s.inputs = [] →
    ∃ count, count = min (Config.freeCount s.draws) f.length ∧
      step s = .next { s with
        acc := BitVec.ofNat 5 count, wire := s.wire ++ f.take count, txpend := s.txpend ++ f.take count,
        phase := .drain, draws := s.draws + 1 }

/-- R94, R98, R101: in DRAIN the encoder waits while output is pending, for ever if need be; once drained the timer is loaded
with the settle duration of the frame's kind. That the wait is a step that changes nothing, and that the transport reports
drained exactly when `TXPEND` is empty, is the model's choice (log 12), as is the encoder's step with nothing listed
(log 10). -/
def Obligations.DrainWaitsThenLoadsTheSettleTime : Prop :=
  ∀ (s : State) (rest : List Input), s.phase = .drain → s.encoderNext rest →
    (s.txpend ≠ [] → step s = .next { s with inputs := rest }) ∧
    (s.txpend = [] → step s = .next { s with
      phase := .settle, inputs := rest
      tmr := match s.curKind with
        | .act => s.settleAct
        | .deact => s.settleDeact
        | .load => s.settleLoad
        | .jog => s.settleJog })

/-- R95, R96, R117: in SETTLE a tick counts the timer down; at zero the command completes, with SENT when `ACC = FLEN` and
SHORT_WRITE otherwise, and the block is idle. That a step of the encoder, listed or with nothing listed, is one tick is the
model's choice (logs 10, 14). -/
def Obligations.SettleCountsDownThenCompletes : Prop :=
  ∀ (s : State) (rest : List Input), s.phase = .settle → s.encoderNext rest →
    (s.tmr ≠ 0 → step s = .next { s with tmr := s.tmr - 1, inputs := rest }) ∧
    (s.tmr = 0 → ∀ r, r = (if s.acc = s.flen then Result.sent else Result.shortWrite) →
      step s = .next { s with
        phase := .idle, res := r, resValid := true, lastOp := s.cur.extractLsb' 0 3,
        doneLog := s.doneLog ++ [r], inputs := rest })

/-- R27: the transport sends from the head of `TXPEND`, the link peer's bytes go to the end of `RXBUF`, and neither touches
anything else. -/
def Obligations.TransportAndLinkMoves : Prop :=
  ∀ (s : State) (b : Byte) (rest : List Input),
    (s.inputs = .agent .transportSends :: rest → step s = .next { s with txpend := s.txpend.tail, inputs := rest }) ∧
    (s.inputs = .agent (.linkByte b) :: rest → step s = .next { s with rxbuf := s.rxbuf ++ [b], inputs := rest })

/-- R90, R97, R99: from CLEAR, whatever count `n` the transport answers, the command clears, writes once, waits for the
drain, waits its whole settle time and completes: the wire has gained the accepted bytes and no others, and the result says
whether they were the whole frame. That the drain ends once `TXPEND` is empty and that one encoder move is one tick are the
model's choices (logs 12, 14). -/
def Obligations.AcceptedCommandRunsToCompletion : Prop :=
  ∀ (s : State) (f : List Byte) (n : Nat) (rest : List Input) (r : Result),
    s.phase = .clear → f.length ≤ 17 → s.fb = Memory.fill f → s.flen = BitVec.ofNat 5 f.length → s.txpend = [] →
    s.inputs = [.agent (.encoder 0), .agent (.encoder n)] ++
      (List.replicate (min n f.length) (.agent .transportSends) ++
      (List.replicate ((s.settleOf s.curKind).toNat + 2) (.agent (.encoder 0)) ++ rest)) →
    r = (if f.length ≤ n then Result.sent else Result.shortWrite) →
    Host.Core.run Sys2Proof.core (2 + (min n f.length + ((s.settleOf s.curKind).toNat + 2))) s = .next { s with
      phase := .idle, rxbuf := [], wire := s.wire ++ f.take n, txpend := [], tmr := 0,
      acc := BitVec.ofNat 5 (min n f.length), res := r, resValid := true, lastOp := s.cur.extractLsb' 0 3,
      doneLog := s.doneLog ++ [r], inputs := rest }

/-- R40, R65, R96, R110: one of the six motor commands, or a `BRIDGE` that is accepted, presented to an idle block whose output
has left, puts the accepted part of one frame on the wire, the frame its accept step builds, and reports one result, with its
own `OP`; the inbound buffer has been emptied and the block is idle again. That the drain ends once `TXPEND` is empty and that
one encoder move is one tick are the model's choices (logs 12, 14). -/
def Obligations.PresentedCommandReachesTheWire : Prop :=
  ∀ (s : State) (w : Word64) (n len : Nat) (k : Kind) (id : Byte) (rest : List Input),
    s.phase = .idle → s.txpend = [] →
    ((w.extractLsb' 0 3).toNat < 6 ∧ id = w.extractLsb' 8 8 ∨
      w.extractLsb' 0 3 = 6 ∧ 1 ≤ (w.extractLsb' 4 4).toNat ∧ (w.extractLsb' 4 4).toNat ≤ 8 ∧
        s.idset.getLsbD (w.extractLsb' 32 4).toNat = true ∧ id = (w.extractLsb' 32 4).setWidth 8) →
    kindOfOp (w.extractLsb' 0 3) = some k → len = (if (w.extractLsb' 0 3).toNat < 2 then 10 else 17) →
    s.inputs = [.port (.command w), .agent (.encoder 0), .agent (.encoder n)] ++
      (List.replicate (min n len) (.agent .transportSends) ++
      (List.replicate ((s.settleOf k).toNat + 2) (.agent (.encoder 0)) ++ rest)) →
    ∃ f t u, IsFrame k f ∧ f.length = len ∧ f[5]? = some id ∧
      exec (decode (.command w)) s = .next t ∧ t.fb = Memory.fill f ∧
      Host.Core.run Sys2Proof.core (3 + (min n len + ((s.settleOf k).toNat + 2))) s = .next u ∧
      u.phase = .idle ∧ u.wire = s.wire ++ f.take n ∧ u.rxbuf = [] ∧ u.txpend = [] ∧
      u.res = (if len ≤ n then .sent else .shortWrite) ∧ u.resValid = true ∧ u.lastOp = w.extractLsb' 0 3 ∧
      u.doneLog = s.doneLog ++ [u.res] ∧ u.readLog = s.readLog ∧ u.idset = s.idset ∧ u.inputs = rest

/-- R95, R100: in SETTLE no run of at most `TMR` steps without a reset ends the command, whatever the agents do: the block
stays busy, nothing is sent and no result is given. One step is at most one tick (log 14). -/
def Obligations.SettleTimeIsALowerBound : Prop :=
  ∀ (k : Nat) (s : State), s.phase = .settle → k ≤ s.tmr.toNat →
    (∀ kept, Input.agent (.reset kept) ∉ s.inputs.take k) →
    ∃ t, Host.Core.run Sys2Proof.core k s = .next t ∧ t.phase = .settle ∧ t.wire = s.wire ∧ t.doneLog = s.doneLog ∧
      t.cur = s.cur

/-! ### What every step keeps to -/

/-- A presented access runs the instruction it decodes to, on the state with that move taken off the list; nothing else is
added around it. -/
def Obligations.StepRunsThePresentedInstruction : Prop :=
  (∀ (s : State) (a : PortAccess) (rest : List Input), s.inputs = .port a :: rest →
    step s = exec (decode a) { s with inputs := rest }) ∧
  (∀ (s : State) (i : Instr) (rest : List Input), WellFormed i = true → s.inputs = .port (encode i) :: rest →
    step s = exec i { s with inputs := rest }) ∧
  (∀ (s : State) (w : Word64), step (s.withFetchWord 64 w.toNat) = exec (decode (.command w)) s)

/-- R129: an idle block does nothing until a command is presented: its encoder has no step, be its move listed or nothing
listed at all (the model's list of moves: log 10). -/
def Obligations.IdleBlockDoesNothing : Prop :=
  ∀ (s : State) (rest : List Input), s.phase = .idle → s.encoderNext rest → step s = .next { s with inputs := rest }

/-- R13, R41: without a reset the phases follow one another in order, each step keeping the phase or moving to the next
one. -/
def Obligations.PhasesFollowInOrder : Prop :=
  ∀ s t : State, s.notReset → step s = .next t →
    t.phase = s.phase ∨ (s.phase = .idle ∧ t.phase = .clear) ∨ (s.phase = .clear ∧ t.phase = .write) ∨
    (s.phase = .write ∧ t.phase = .drain) ∨ (s.phase = .drain ∧ t.phase = .settle) ∨
    (s.phase = .settle ∧ t.phase = .idle)

/-- R32: nothing is removed from the wire, and only the write step appends to it. -/
def Obligations.WireGrowsOnlyInTheWriteStep : Prop :=
  ∀ s t : State, s.notReset → step s = .next t →
    (∃ bs, t.wire = s.wire ++ bs) ∧ (t.wire ≠ s.wire → s.phase = .write ∧ t.phase = .drain)

/-- R17, R96: `RES`, `RES_VALID` and `LAST_OP` change only when a command completes, which is reported once, and then hold
that command's result and `OP`. -/
def Obligations.StatusChangesOnlyAtCompletion : Prop :=
  ∀ s t : State, s.notReset → step s = .next t →
    (t.res = s.res ∧ t.resValid = s.resValid ∧ t.lastOp = s.lastOp ∧ t.doneLog = s.doneLog) ∨
    (t.phase = .idle ∧ t.resValid = true ∧ t.lastOp = t.cur.extractLsb' 0 3 ∧ t.doneLog = s.doneLog ++ [t.res])

/-- R25, R43: while the block is busy no step but a reset changes a configuration register. -/
def Obligations.ConfigurationIsStableWhileBusy : Prop :=
  ∀ s t : State, s.notReset → s.phase ≠ .idle → step s = .next t →
    t.settleAct = s.settleAct ∧ t.settleDeact = s.settleDeact ∧ t.settleLoad = s.settleLoad ∧
    t.settleJog = s.settleJog ∧ t.idset = s.idset

/-- R92, R144: inbound bytes are never read: two states that differ in `RXBUF` alone step to states that differ in it
alone. -/
def Obligations.InboundBytesAreNeverRead : Prop :=
  ∀ (s : State) (bs : List Byte),
    mapNext (fun t => { t with rxbuf := [] }) (step { s with rxbuf := bs }) =
    mapNext (fun t => { t with rxbuf := [] }) (step s)

/-- R96, R97, R116: when a command completes, SENT says that the wire ends with the whole frame in the frame buffer, which is one
of its kind, and SHORT_WRITE that it ends with the first `ACC` bytes of it, fewer than the whole. -/
def Obligations.SentMeansTheWholeFrameIsOnTheWire : Prop :=
  ∀ s t : State, s.Inv → s.notReset → s.phase = .settle → step s = .next t → t.phase = .idle →
    ∃ before f, IsFrame s.curKind f ∧ s.fb = Memory.fill f ∧ s.flen = BitVec.ofNat 5 f.length ∧
      ((t.res = .sent ∧ s.acc.toNat = f.length ∧ t.wire = before ++ f) ∨
       (t.res = .shortWrite ∧ s.acc.toNat < f.length ∧ t.wire = before ++ f.take s.acc.toNat))

/-- R130, R131: the reset input puts the block into its reset values without a result; the transport's inbound bytes stay; of
a frame in flight the first `kept` bytes, any number, are on the wire afterwards (the model's reading of R131: log 13), and
in CLEAR and WRITE they are the transport's to send. -/
def Obligations.ResetAbandonsTheCommand : Prop :=
  ∀ (s : State) (kept : Nat) (rest : List Input), s.inputs = .agent (.reset kept) :: rest →
    ∃ t, step s = .next t ∧ t.phase = .idle ∧ t.readCR 0 = 0 ∧ t.readCR 1 = Config.times.act ∧
      t.readCR 2 = Config.times.deact ∧ t.readCR 3 = Config.times.load ∧ t.readCR 4 = Config.times.jog ∧
      t.readCR 5 = 0x7000 ∧ t.rxbuf = s.rxbuf ∧ t.doneLog = s.doneLog ∧ t.inputs = rest ∧
      (s.phase = .idle → t.wire = [] ∧ t.txpend = s.txpend) ∧
      ∀ f : List Byte, s.phase ≠ .idle → f.length ≤ 17 → s.fb = Memory.fill f → s.flen = BitVec.ofNat 5 f.length →
        t.wire = f.take kept ∧
        t.txpend = s.txpend ++ (if s.phase = .clear ∨ s.phase = .write then f.take kept else [])

/-- The invariant holds after reset. -/
def Obligations.ResetMeetsTheInvariant : Prop := State.reset.Inv

/-- Every step keeps the invariant: the frame buffer's canonical form, the status fields of R20, and, while the block is busy,
that the frame buffer holds a whole frame of the command's kind and the wire ends with its accepted bytes. -/
def Obligations.EveryStepKeepsTheInvariant : Prop :=
  ∀ s t : State, s.Inv → step s = .next t → t.Inv

/-- R115: the block never traps, aborts or raises: from a state with the invariant every step answers a next state; an undrained
wait is such a step, one that changes nothing (log 12). -/
def Obligations.TheBlockNeverStops : Prop :=
  ∀ s : State, s.Inv → ∃ t, step s = .next t
end

