-- ==== Sys2Proof/Laws/Encoding.lean ====
section
/-! SUPPORT. The fields and the reserved bits read back from an assembled command word. -/

namespace Sys2Proof

@[simp] theorem opField_wordM (op : BitVec 3) (id : Byte) (rsv : ReservedM) : opField (wordM op id rsv) = op := by
  unfold opField wordM
  refine BitVec.eq_of_getLsbD_eq fun i hi => ?_
  simp only [BitVec.getLsbD_extractLsb', BitVec.getLsbD_append]
  grind

@[simp] theorem idField_wordM (op : BitVec 3) (id : Byte) (rsv : ReservedM) : idField (wordM op id rsv) = id := by
  unfold idField wordM
  refine BitVec.eq_of_getLsbD_eq fun i hi => ?_
  simp only [BitVec.getLsbD_extractLsb', BitVec.getLsbD_append]
  grind

@[simp] theorem wordM_low (op : BitVec 3) (id : Byte) (rsv : ReservedM) : (wordM op id rsv).extractLsb' 3 5 = rsv.low := by
  unfold wordM
  refine BitVec.eq_of_getLsbD_eq fun i hi => ?_
  simp only [BitVec.getLsbD_extractLsb', BitVec.getLsbD_append]
  grind

@[simp] theorem wordM_high (op : BitVec 3) (id : Byte) (rsv : ReservedM) : (wordM op id rsv).extractLsb' 16 48 = rsv.high := by
  unfold wordM
  refine BitVec.eq_of_getLsbD_eq fun i hi => ?_
  simp only [BitVec.getLsbD_extractLsb', BitVec.getLsbD_append]
  grind

@[simp] theorem opField_wordJog (id : Byte) (p : Word32) (flag : Byte) (rsv : ReservedJ) : opField (wordJog id p flag rsv) = 3 := by
  unfold opField wordJog
  refine BitVec.eq_of_getLsbD_eq fun i hi => ?_
  simp only [BitVec.getLsbD_extractLsb', BitVec.getLsbD_append]
  grind

@[simp] theorem idField_wordJog (id : Byte) (p : Word32) (flag : Byte) (rsv : ReservedJ) : idField (wordJog id p flag rsv) = id := by
  unfold idField wordJog
  refine BitVec.eq_of_getLsbD_eq fun i hi => ?_
  simp only [BitVec.getLsbD_extractLsb', BitVec.getLsbD_append]
  grind

@[simp] theorem speedField_wordJog (id : Byte) (p : Word32) (flag : Byte) (rsv : ReservedJ) : speedField (wordJog id p flag rsv) = p := by
  unfold speedField wordJog
  refine BitVec.eq_of_getLsbD_eq fun i hi => ?_
  simp only [BitVec.getLsbD_extractLsb', BitVec.getLsbD_append]
  grind

@[simp] theorem flagField_wordJog (id : Byte) (p : Word32) (flag : Byte) (rsv : ReservedJ) : flagField (wordJog id p flag rsv) = flag := by
  unfold flagField wordJog
  refine BitVec.eq_of_getLsbD_eq fun i hi => ?_
  simp only [BitVec.getLsbD_extractLsb', BitVec.getLsbD_append]
  grind

@[simp] theorem wordJog_low (id : Byte) (p : Word32) (flag : Byte) (rsv : ReservedJ) : (wordJog id p flag rsv).extractLsb' 3 5 = rsv.low := by
  unfold wordJog
  refine BitVec.eq_of_getLsbD_eq fun i hi => ?_
  simp only [BitVec.getLsbD_extractLsb', BitVec.getLsbD_append]
  grind

@[simp] theorem wordJog_mid (id : Byte) (p : Word32) (flag : Byte) (rsv : ReservedJ) : (wordJog id p flag rsv).extractLsb' 24 8 = rsv.mid := by
  unfold wordJog
  refine BitVec.eq_of_getLsbD_eq fun i hi => ?_
  simp only [BitVec.getLsbD_extractLsb', BitVec.getLsbD_append]
  grind

@[simp] theorem opField_wordMoveAt (id : Byte) (p : Word32) (rsv : ReservedMoveAt) : opField (wordMoveAt id p rsv) = 5 := by
  unfold opField wordMoveAt
  refine BitVec.eq_of_getLsbD_eq fun i hi => ?_
  simp only [BitVec.getLsbD_extractLsb', BitVec.getLsbD_append]
  grind

@[simp] theorem idField_wordMoveAt (id : Byte) (p : Word32) (rsv : ReservedMoveAt) : idField (wordMoveAt id p rsv) = id := by
  unfold idField wordMoveAt
  refine BitVec.eq_of_getLsbD_eq fun i hi => ?_
  simp only [BitVec.getLsbD_extractLsb', BitVec.getLsbD_append]
  grind

@[simp] theorem speedField_wordMoveAt (id : Byte) (p : Word32) (rsv : ReservedMoveAt) : speedField (wordMoveAt id p rsv) = p := by
  unfold speedField wordMoveAt
  refine BitVec.eq_of_getLsbD_eq fun i hi => ?_
  simp only [BitVec.getLsbD_extractLsb', BitVec.getLsbD_append]
  grind

@[simp] theorem wordMoveAt_low (id : Byte) (p : Word32) (rsv : ReservedMoveAt) : (wordMoveAt id p rsv).extractLsb' 3 5 = rsv.low := by
  unfold wordMoveAt
  refine BitVec.eq_of_getLsbD_eq fun i hi => ?_
  simp only [BitVec.getLsbD_extractLsb', BitVec.getLsbD_append]
  grind

@[simp] theorem wordMoveAt_mid (id : Byte) (p : Word32) (rsv : ReservedMoveAt) : (wordMoveAt id p rsv).extractLsb' 16 16 = rsv.mid := by
  unfold wordMoveAt
  refine BitVec.eq_of_getLsbD_eq fun i hi => ?_
  simp only [BitVec.getLsbD_extractLsb', BitVec.getLsbD_append]
  grind

@[simp] theorem opField_wordBridge (ident : BitVec 29) (len : Nat) (d : Byte) (rsv : ReservedB) : opField (wordBridge ident len d rsv) = 6 := by
  unfold opField wordBridge
  refine BitVec.eq_of_getLsbD_eq fun i hi => ?_
  simp only [BitVec.getLsbD_extractLsb', BitVec.getLsbD_append]
  grind

@[simp] theorem data0Field_wordBridge (ident : BitVec 29) (len : Nat) (d : Byte) (rsv : ReservedB) : data0Field (wordBridge ident len d rsv) = d := by
  unfold data0Field wordBridge
  refine BitVec.eq_of_getLsbD_eq fun i hi => ?_
  simp only [BitVec.getLsbD_extractLsb', BitVec.getLsbD_append]
  grind

@[simp] theorem identField_wordBridge (ident : BitVec 29) (len : Nat) (d : Byte) (rsv : ReservedB) : identField (wordBridge ident len d rsv) = ident := by
  unfold identField wordBridge
  refine BitVec.eq_of_getLsbD_eq fun i hi => ?_
  simp only [BitVec.getLsbD_extractLsb', BitVec.getLsbD_append]
  grind

@[simp] theorem wordBridge_len (ident : BitVec 29) (len : Nat) (d : Byte) (rsv : ReservedB) : (wordBridge ident len d rsv).extractLsb' 4 4 = BitVec.ofNat 4 len := by
  unfold wordBridge
  refine BitVec.eq_of_getLsbD_eq fun i hi => ?_
  simp only [BitVec.getLsbD_extractLsb', BitVec.getLsbD_append]
  grind

@[simp] theorem wordBridge_bit3 (ident : BitVec 29) (len : Nat) (d : Byte) (rsv : ReservedB) : (wordBridge ident len d rsv).extractLsb' 3 1 = rsv.bit3 := by
  unfold wordBridge
  refine BitVec.eq_of_getLsbD_eq fun i hi => ?_
  simp only [BitVec.getLsbD_extractLsb', BitVec.getLsbD_append]
  grind

@[simp] theorem wordBridge_mid (ident : BitVec 29) (len : Nat) (d : Byte) (rsv : ReservedB) : (wordBridge ident len d rsv).extractLsb' 16 16 = rsv.mid := by
  unfold wordBridge
  refine BitVec.eq_of_getLsbD_eq fun i hi => ?_
  simp only [BitVec.getLsbD_extractLsb', BitVec.getLsbD_append]
  grind

@[simp] theorem wordBridge_top (ident : BitVec 29) (len : Nat) (d : Byte) (rsv : ReservedB) : (wordBridge ident len d rsv).extractLsb' 61 3 = rsv.top := by
  unfold wordBridge
  refine BitVec.eq_of_getLsbD_eq fun i hi => ?_
  simp only [BitVec.getLsbD_extractLsb', BitVec.getLsbD_append]
  grind

@[simp] theorem opField_wordReserved7 (rsv : BitVec 61) : opField (wordReserved7 rsv) = 7 := by
  unfold opField wordReserved7
  refine BitVec.eq_of_getLsbD_eq fun i hi => ?_
  simp only [BitVec.getLsbD_extractLsb', BitVec.getLsbD_append]
  grind

@[simp] theorem wordReserved7_rest (rsv : BitVec 61) : (wordReserved7 rsv).extractLsb' 3 61 = rsv := by
  unfold wordReserved7
  refine BitVec.eq_of_getLsbD_eq fun i hi => ?_
  simp only [BitVec.getLsbD_extractLsb', BitVec.getLsbD_append]
  grind

end Sys2Proof
end

