-- ==== Sys2Proof/Laws/Memory.lean ====
section
/-! SUPPORT. The laws of the frame buffer: every operation keeps the canonical form, a read after a write, and what a filled
buffer reads as. -/

namespace Sys2Proof.Machine

theorem read_insert_same (m : Memory) (a : Nat) (v : Byte) : (m.insert a v).read a = some v := by
  induction m with
  | nil => simp [Memory.insert, Memory.read]
  | cons c m ih =>
    obtain ⟨b, x⟩ := c
    simp only [Memory.insert]
    split
    · simp [Memory.read]
    · split
      · simp [Memory.read]
      · simp [Memory.read, ‹¬a = b›, ih]

theorem read_insert_other (m : Memory) (a b : Nat) (v : Byte) (h : b ≠ a) : (m.insert a v).read b = m.read b := by
  induction m with
  | nil => simp [Memory.insert, Memory.read, h]
  | cons c m ih =>
    obtain ⟨d, x⟩ := c
    simp only [Memory.insert]
    split
    · simp [Memory.read, h]
    · split
      · subst_vars; simp [Memory.read, h]
      · simp [Memory.read, ih]

theorem mem_insert {m : Memory} {a : Nat} {v : Byte} {c : Host.Cell} (h : c ∈ m.insert a v) : c = (a, v) ∨ c ∈ m := by
  induction m with
  | nil => exact .inl (by simpa [Memory.insert] using h)
  | cons d m ih =>
    obtain ⟨b, x⟩ := d
    simp only [Memory.insert] at h
    split at h
    · simpa using h
    · split at h
      · rcases List.mem_cons.mp h with h | h
        · exact .inl h
        · exact .inr (List.mem_cons_of_mem _ h)
      · rcases List.mem_cons.mp h with h | h
        · exact .inr (h ▸ List.mem_cons_self)
        · exact (ih h).imp_right (List.mem_cons_of_mem _)

/-- Inserting a cell keeps the offsets strictly rising. -/
theorem insert_rising (m : Memory) (a : Nat) (v : Byte) (h : m.Pairwise (fun x y => x.1 < y.1)) :
    (m.insert a v).Pairwise (fun x y => x.1 < y.1) := by
  induction m with
  | nil => simp [Memory.insert]
  | cons d m ih =>
    obtain ⟨b, x⟩ := d
    obtain ⟨hb, hm⟩ := List.pairwise_cons.mp h
    simp only [Memory.insert]
    split
    · refine List.pairwise_cons.mpr ⟨fun c hc => ?_, h⟩
      rcases List.mem_cons.mp hc with rfl | hc
      · assumption
      · exact lt_trans ‹a < b› (hb c hc)
    · split
      · subst_vars; exact List.pairwise_cons.mpr ⟨hb, hm⟩
      · refine List.pairwise_cons.mpr ⟨fun c hc => ?_, ih hm⟩
        rcases mem_insert hc with rfl | hc
        · simp only; omega
        · exact hb c hc

/-- One written byte keeps the canonical form. -/
theorem writeByte_wf {m m' : Memory} {a : Nat} {v : Byte} (hm : m.wf) (h : m.writeByte a v = .ok m') : m'.wf := by
  simp only [Memory.writeByte] at h
  split at h
  · injection h with h
    subst h
    refine ⟨insert_rising m a v hm.1, fun c hc => ?_⟩
    rcases mem_insert hc with rfl | hc
    · assumption
    · exact hm.2 c hc
  · cases h

/-- `MemWrite` keeps the canonical form. -/
theorem memWrite_wf {m m' : Memory} {a n v : Nat} (hm : m.wf) (h : m.memWrite a n v = .ok m') : m'.wf := by
  induction n generalizing v m' with
  | zero => injection h with h; exact h ▸ hm
  | succ n ih =>
    simp only [Memory.memWrite] at h
    split at h
    · cases h
    · exact writeByte_wf (ih ‹_›) h

/-- A written byte is read back, and the write reaches no other offset. -/
theorem writeByte_read {m m' : Memory} {a : Nat} {v : Byte} (h : m.writeByte a v = .ok m') (b : Nat) :
    m'.read b = if b = a then some v else m.read b := by
  simp only [Memory.writeByte] at h
  split at h
  · injection h with h
    subst h
    split
    · subst_vars; exact read_insert_same ..
    · exact read_insert_other _ _ _ _ ‹_›
  · cases h

theorem mem_cellsFrom {f : List Byte} {a : Nat} {c : Host.Cell} (h : c ∈ cellsFrom a f) : a ≤ c.1 ∧ c.1 < a + f.length := by
  induction f generalizing a with
  | nil => cases h
  | cons b f ih =>
    rcases List.mem_cons.mp h with rfl | h
    · simp
    · have := ih h
      simp only [List.length_cons]
      omega

theorem cellsFrom_rising (f : List Byte) (a : Nat) : (cellsFrom a f).Pairwise (fun x y => x.1 < y.1) := by
  induction f generalizing a with
  | nil => simp [cellsFrom]
  | cons b f ih =>
    refine List.pairwise_cons.mpr ⟨fun c hc => ?_, ih (a + 1)⟩
    have := mem_cellsFrom hc
    simp only
    omega

/-- Filling the frame buffer gives the canonical form. -/
theorem fill_wf (f : List Byte) : (Memory.fill f).wf := by
  refine ⟨cellsFrom_rising _ _, fun c hc => ?_⟩
  have := mem_cellsFrom hc
  simp only [List.length_take, fbSize] at *
  omega

/-- The frame buffer right after reset is in canonical form. -/
theorem reset_fb_wf : State.reset.fb.wf := by decide

theorem read_cellsFrom (f : List Byte) (a b : Nat) : (cellsFrom a f).read b = if a ≤ b then f[b - a]? else none := by
  induction f generalizing a with
  | nil => simp [cellsFrom, Memory.read]
  | cons x f ih =>
    simp only [cellsFrom, Memory.read, ih]
    rcases lt_trichotomy b a with h | h | h
    · simp [show b ≠ a by omega, show ¬a + 1 ≤ b by omega, show ¬a ≤ b by omega]
    · simp [h]
    · simp [show b ≠ a by omega, show a + 1 ≤ b by omega, show a ≤ b by omega,
        show b - a = (b - (a + 1)) + 1 by omega]

/-- A filled frame buffer reads as the frame, and holds no value beyond it. -/
theorem read_fill (f : List Byte) (h : f.length ≤ fbSize) (a : Nat) : (Memory.fill f).read a = f[a]? := by
  rw [Memory.fill, List.take_of_length_le h, read_cellsFrom]
  simp

theorem readRange_of_read (m : Memory) (f : List Byte) (a : Nat) (hf : a + f.length ≤ fbSize)
    (h : ∀ i, i < f.length → m.read (a + i) = f[i]?) : m.readRange a f.length = .ok f := by
  induction f generalizing a with
  | nil => rfl
  | cons b f ih =>
    have h0 : m.read a = some b := by simpa using h 0 (by simp)
    have hlen : f.length + 1 + a ≤ fbSize := by simpa [Nat.add_comm] using hf
    have ha : a < fbSize := by omega
    have hr : m.readRange (a + 1) f.length = .ok f := by
      refine ih (a + 1) (by omega) fun i hi => ?_
      simpa [Nat.add_assoc, Nat.add_comm 1 i] using h (i + 1) (by simpa using hi)
    simp [Memory.readRange, Memory.readByte, ha, h0, hr]

/-- The write step reads back the frame the accept step built. -/
theorem readRange_fill (f : List Byte) (h : f.length ≤ fbSize) : (Memory.fill f).readRange 0 f.length = .ok f :=
  readRange_of_read _ f 0 (by simpa using h) fun i _ => by simpa using read_fill f h i

end Sys2Proof.Machine
end

