-- ==== Sys2Proof/Laws/State.lean ====
section
/-! SUPPORT. For each named update of State, what every field holds afterwards. -/

namespace Sys2Proof.Machine

/-! ### After `TxClearRx` -/

@[simp] theorem txClearRx_phase (s : State) : (State.txClearRx s).phase = s.phase := rfl
@[simp] theorem txClearRx_cur (s : State) : (State.txClearRx s).cur = s.cur := rfl
@[simp] theorem txClearRx_curKind (s : State) : (State.txClearRx s).curKind = s.curKind := rfl
@[simp] theorem txClearRx_fb (s : State) : (State.txClearRx s).fb = s.fb := rfl
@[simp] theorem txClearRx_flen (s : State) : (State.txClearRx s).flen = s.flen := rfl
@[simp] theorem txClearRx_acc (s : State) : (State.txClearRx s).acc = s.acc := rfl
@[simp] theorem txClearRx_tmr (s : State) : (State.txClearRx s).tmr = s.tmr := rfl
@[simp] theorem txClearRx_res (s : State) : (State.txClearRx s).res = s.res := rfl
@[simp] theorem txClearRx_resValid (s : State) : (State.txClearRx s).resValid = s.resValid := rfl
@[simp] theorem txClearRx_lastOp (s : State) : (State.txClearRx s).lastOp = s.lastOp := rfl
@[simp] theorem txClearRx_settleAct (s : State) : (State.txClearRx s).settleAct = s.settleAct := rfl
@[simp] theorem txClearRx_settleDeact (s : State) : (State.txClearRx s).settleDeact = s.settleDeact := rfl
@[simp] theorem txClearRx_settleLoad (s : State) : (State.txClearRx s).settleLoad = s.settleLoad := rfl
@[simp] theorem txClearRx_settleJog (s : State) : (State.txClearRx s).settleJog = s.settleJog := rfl
@[simp] theorem txClearRx_idset (s : State) : (State.txClearRx s).idset = s.idset := rfl
@[simp] theorem txClearRx_wire (s : State) : (State.txClearRx s).wire = s.wire := rfl
@[simp] theorem txClearRx_rxbuf (s : State) : (State.txClearRx s).rxbuf = [] := rfl
@[simp] theorem txClearRx_txpend (s : State) : (State.txClearRx s).txpend = s.txpend := rfl
@[simp] theorem txClearRx_doneLog (s : State) : (State.txClearRx s).doneLog = s.doneLog := rfl
@[simp] theorem txClearRx_readLog (s : State) : (State.txClearRx s).readLog = s.readLog := rfl
@[simp] theorem txClearRx_draws (s : State) : (State.txClearRx s).draws = s.draws := rfl
@[simp] theorem txClearRx_inputs (s : State) : (State.txClearRx s).inputs = s.inputs := rfl

/-! ### After `TxWrite` -/

@[simp] theorem txWrite_phase (f : List Byte) (n : Nat) (s : State) : (State.txWrite f n s).phase = s.phase := rfl
@[simp] theorem txWrite_cur (f : List Byte) (n : Nat) (s : State) : (State.txWrite f n s).cur = s.cur := rfl
@[simp] theorem txWrite_curKind (f : List Byte) (n : Nat) (s : State) : (State.txWrite f n s).curKind = s.curKind := rfl
@[simp] theorem txWrite_fb (f : List Byte) (n : Nat) (s : State) : (State.txWrite f n s).fb = s.fb := rfl
@[simp] theorem txWrite_flen (f : List Byte) (n : Nat) (s : State) : (State.txWrite f n s).flen = s.flen := rfl
@[simp] theorem txWrite_acc (f : List Byte) (n : Nat) (s : State) : (State.txWrite f n s).acc = BitVec.ofNat 5 (min n f.length) := rfl
@[simp] theorem txWrite_tmr (f : List Byte) (n : Nat) (s : State) : (State.txWrite f n s).tmr = s.tmr := rfl
@[simp] theorem txWrite_res (f : List Byte) (n : Nat) (s : State) : (State.txWrite f n s).res = s.res := rfl
@[simp] theorem txWrite_resValid (f : List Byte) (n : Nat) (s : State) : (State.txWrite f n s).resValid = s.resValid := rfl
@[simp] theorem txWrite_lastOp (f : List Byte) (n : Nat) (s : State) : (State.txWrite f n s).lastOp = s.lastOp := rfl
@[simp] theorem txWrite_settleAct (f : List Byte) (n : Nat) (s : State) : (State.txWrite f n s).settleAct = s.settleAct := rfl
@[simp] theorem txWrite_settleDeact (f : List Byte) (n : Nat) (s : State) : (State.txWrite f n s).settleDeact = s.settleDeact := rfl
@[simp] theorem txWrite_settleLoad (f : List Byte) (n : Nat) (s : State) : (State.txWrite f n s).settleLoad = s.settleLoad := rfl
@[simp] theorem txWrite_settleJog (f : List Byte) (n : Nat) (s : State) : (State.txWrite f n s).settleJog = s.settleJog := rfl
@[simp] theorem txWrite_idset (f : List Byte) (n : Nat) (s : State) : (State.txWrite f n s).idset = s.idset := rfl
@[simp] theorem txWrite_wire (f : List Byte) (n : Nat) (s : State) : (State.txWrite f n s).wire = s.wire ++ f.take n := rfl
@[simp] theorem txWrite_rxbuf (f : List Byte) (n : Nat) (s : State) : (State.txWrite f n s).rxbuf = s.rxbuf := rfl
@[simp] theorem txWrite_txpend (f : List Byte) (n : Nat) (s : State) : (State.txWrite f n s).txpend = s.txpend ++ f.take n := rfl
@[simp] theorem txWrite_doneLog (f : List Byte) (n : Nat) (s : State) : (State.txWrite f n s).doneLog = s.doneLog := rfl
@[simp] theorem txWrite_readLog (f : List Byte) (n : Nat) (s : State) : (State.txWrite f n s).readLog = s.readLog := rfl
@[simp] theorem txWrite_draws (f : List Byte) (n : Nat) (s : State) : (State.txWrite f n s).draws = s.draws := rfl
@[simp] theorem txWrite_inputs (f : List Byte) (n : Nat) (s : State) : (State.txWrite f n s).inputs = s.inputs := rfl

/-! ### After the transport sending a byte -/

@[simp] theorem transportSend_phase (s : State) : (State.transportSend s).phase = s.phase := rfl
@[simp] theorem transportSend_cur (s : State) : (State.transportSend s).cur = s.cur := rfl
@[simp] theorem transportSend_curKind (s : State) : (State.transportSend s).curKind = s.curKind := rfl
@[simp] theorem transportSend_fb (s : State) : (State.transportSend s).fb = s.fb := rfl
@[simp] theorem transportSend_flen (s : State) : (State.transportSend s).flen = s.flen := rfl
@[simp] theorem transportSend_acc (s : State) : (State.transportSend s).acc = s.acc := rfl
@[simp] theorem transportSend_tmr (s : State) : (State.transportSend s).tmr = s.tmr := rfl
@[simp] theorem transportSend_res (s : State) : (State.transportSend s).res = s.res := rfl
@[simp] theorem transportSend_resValid (s : State) : (State.transportSend s).resValid = s.resValid := rfl
@[simp] theorem transportSend_lastOp (s : State) : (State.transportSend s).lastOp = s.lastOp := rfl
@[simp] theorem transportSend_settleAct (s : State) : (State.transportSend s).settleAct = s.settleAct := rfl
@[simp] theorem transportSend_settleDeact (s : State) : (State.transportSend s).settleDeact = s.settleDeact := rfl
@[simp] theorem transportSend_settleLoad (s : State) : (State.transportSend s).settleLoad = s.settleLoad := rfl
@[simp] theorem transportSend_settleJog (s : State) : (State.transportSend s).settleJog = s.settleJog := rfl
@[simp] theorem transportSend_idset (s : State) : (State.transportSend s).idset = s.idset := rfl
@[simp] theorem transportSend_wire (s : State) : (State.transportSend s).wire = s.wire := rfl
@[simp] theorem transportSend_rxbuf (s : State) : (State.transportSend s).rxbuf = s.rxbuf := rfl
@[simp] theorem transportSend_txpend (s : State) : (State.transportSend s).txpend = s.txpend.tail := rfl
@[simp] theorem transportSend_doneLog (s : State) : (State.transportSend s).doneLog = s.doneLog := rfl
@[simp] theorem transportSend_readLog (s : State) : (State.transportSend s).readLog = s.readLog := rfl
@[simp] theorem transportSend_draws (s : State) : (State.transportSend s).draws = s.draws := rfl
@[simp] theorem transportSend_inputs (s : State) : (State.transportSend s).inputs = s.inputs := rfl

/-! ### After a byte arriving from the link -/

@[simp] theorem linkReceive_phase (b : Byte) (s : State) : (State.linkReceive b s).phase = s.phase := rfl
@[simp] theorem linkReceive_cur (b : Byte) (s : State) : (State.linkReceive b s).cur = s.cur := rfl
@[simp] theorem linkReceive_curKind (b : Byte) (s : State) : (State.linkReceive b s).curKind = s.curKind := rfl
@[simp] theorem linkReceive_fb (b : Byte) (s : State) : (State.linkReceive b s).fb = s.fb := rfl
@[simp] theorem linkReceive_flen (b : Byte) (s : State) : (State.linkReceive b s).flen = s.flen := rfl
@[simp] theorem linkReceive_acc (b : Byte) (s : State) : (State.linkReceive b s).acc = s.acc := rfl
@[simp] theorem linkReceive_tmr (b : Byte) (s : State) : (State.linkReceive b s).tmr = s.tmr := rfl
@[simp] theorem linkReceive_res (b : Byte) (s : State) : (State.linkReceive b s).res = s.res := rfl
@[simp] theorem linkReceive_resValid (b : Byte) (s : State) : (State.linkReceive b s).resValid = s.resValid := rfl
@[simp] theorem linkReceive_lastOp (b : Byte) (s : State) : (State.linkReceive b s).lastOp = s.lastOp := rfl
@[simp] theorem linkReceive_settleAct (b : Byte) (s : State) : (State.linkReceive b s).settleAct = s.settleAct := rfl
@[simp] theorem linkReceive_settleDeact (b : Byte) (s : State) : (State.linkReceive b s).settleDeact = s.settleDeact := rfl
@[simp] theorem linkReceive_settleLoad (b : Byte) (s : State) : (State.linkReceive b s).settleLoad = s.settleLoad := rfl
@[simp] theorem linkReceive_settleJog (b : Byte) (s : State) : (State.linkReceive b s).settleJog = s.settleJog := rfl
@[simp] theorem linkReceive_idset (b : Byte) (s : State) : (State.linkReceive b s).idset = s.idset := rfl
@[simp] theorem linkReceive_wire (b : Byte) (s : State) : (State.linkReceive b s).wire = s.wire := rfl
@[simp] theorem linkReceive_rxbuf (b : Byte) (s : State) : (State.linkReceive b s).rxbuf = s.rxbuf ++ [b] := rfl
@[simp] theorem linkReceive_txpend (b : Byte) (s : State) : (State.linkReceive b s).txpend = s.txpend := rfl
@[simp] theorem linkReceive_doneLog (b : Byte) (s : State) : (State.linkReceive b s).doneLog = s.doneLog := rfl
@[simp] theorem linkReceive_readLog (b : Byte) (s : State) : (State.linkReceive b s).readLog = s.readLog := rfl
@[simp] theorem linkReceive_draws (b : Byte) (s : State) : (State.linkReceive b s).draws = s.draws := rfl
@[simp] theorem linkReceive_inputs (b : Byte) (s : State) : (State.linkReceive b s).inputs = s.inputs := rfl

/-! ### After `complete(r)` -/

@[simp] theorem complete_phase (r : Result) (s : State) : (State.complete r s).phase = s.phase := rfl
@[simp] theorem complete_cur (r : Result) (s : State) : (State.complete r s).cur = s.cur := rfl
@[simp] theorem complete_curKind (r : Result) (s : State) : (State.complete r s).curKind = s.curKind := rfl
@[simp] theorem complete_fb (r : Result) (s : State) : (State.complete r s).fb = s.fb := rfl
@[simp] theorem complete_flen (r : Result) (s : State) : (State.complete r s).flen = s.flen := rfl
@[simp] theorem complete_acc (r : Result) (s : State) : (State.complete r s).acc = s.acc := rfl
@[simp] theorem complete_tmr (r : Result) (s : State) : (State.complete r s).tmr = s.tmr := rfl
@[simp] theorem complete_res (r : Result) (s : State) : (State.complete r s).res = r := rfl
@[simp] theorem complete_resValid (r : Result) (s : State) : (State.complete r s).resValid = true := rfl
@[simp] theorem complete_lastOp (r : Result) (s : State) : (State.complete r s).lastOp = opField s.cur := rfl
@[simp] theorem complete_settleAct (r : Result) (s : State) : (State.complete r s).settleAct = s.settleAct := rfl
@[simp] theorem complete_settleDeact (r : Result) (s : State) : (State.complete r s).settleDeact = s.settleDeact := rfl
@[simp] theorem complete_settleLoad (r : Result) (s : State) : (State.complete r s).settleLoad = s.settleLoad := rfl
@[simp] theorem complete_settleJog (r : Result) (s : State) : (State.complete r s).settleJog = s.settleJog := rfl
@[simp] theorem complete_idset (r : Result) (s : State) : (State.complete r s).idset = s.idset := rfl
@[simp] theorem complete_wire (r : Result) (s : State) : (State.complete r s).wire = s.wire := rfl
@[simp] theorem complete_rxbuf (r : Result) (s : State) : (State.complete r s).rxbuf = s.rxbuf := rfl
@[simp] theorem complete_txpend (r : Result) (s : State) : (State.complete r s).txpend = s.txpend := rfl
@[simp] theorem complete_doneLog (r : Result) (s : State) : (State.complete r s).doneLog = s.doneLog ++ [r] := rfl
@[simp] theorem complete_readLog (r : Result) (s : State) : (State.complete r s).readLog = s.readLog := rfl
@[simp] theorem complete_draws (r : Result) (s : State) : (State.complete r s).draws = s.draws := rfl
@[simp] theorem complete_inputs (r : Result) (s : State) : (State.complete r s).inputs = s.inputs := rfl

/-! ### After a command that emits no frame -/

@[simp] theorem endAtOnce_phase (w : Word64) (r : Result) (s : State) : (State.endAtOnce w r s).phase = s.phase := rfl
@[simp] theorem endAtOnce_cur (w : Word64) (r : Result) (s : State) : (State.endAtOnce w r s).cur = w := rfl
@[simp] theorem endAtOnce_curKind (w : Word64) (r : Result) (s : State) : (State.endAtOnce w r s).curKind = s.curKind := rfl
@[simp] theorem endAtOnce_fb (w : Word64) (r : Result) (s : State) : (State.endAtOnce w r s).fb = s.fb := rfl
@[simp] theorem endAtOnce_flen (w : Word64) (r : Result) (s : State) : (State.endAtOnce w r s).flen = s.flen := rfl
@[simp] theorem endAtOnce_acc (w : Word64) (r : Result) (s : State) : (State.endAtOnce w r s).acc = s.acc := rfl
@[simp] theorem endAtOnce_tmr (w : Word64) (r : Result) (s : State) : (State.endAtOnce w r s).tmr = s.tmr := rfl
@[simp] theorem endAtOnce_res (w : Word64) (r : Result) (s : State) : (State.endAtOnce w r s).res = r := rfl
@[simp] theorem endAtOnce_resValid (w : Word64) (r : Result) (s : State) : (State.endAtOnce w r s).resValid = true := rfl
@[simp] theorem endAtOnce_lastOp (w : Word64) (r : Result) (s : State) : (State.endAtOnce w r s).lastOp = opField w := rfl
@[simp] theorem endAtOnce_settleAct (w : Word64) (r : Result) (s : State) : (State.endAtOnce w r s).settleAct = s.settleAct := rfl
@[simp] theorem endAtOnce_settleDeact (w : Word64) (r : Result) (s : State) : (State.endAtOnce w r s).settleDeact = s.settleDeact := rfl
@[simp] theorem endAtOnce_settleLoad (w : Word64) (r : Result) (s : State) : (State.endAtOnce w r s).settleLoad = s.settleLoad := rfl
@[simp] theorem endAtOnce_settleJog (w : Word64) (r : Result) (s : State) : (State.endAtOnce w r s).settleJog = s.settleJog := rfl
@[simp] theorem endAtOnce_idset (w : Word64) (r : Result) (s : State) : (State.endAtOnce w r s).idset = s.idset := rfl
@[simp] theorem endAtOnce_wire (w : Word64) (r : Result) (s : State) : (State.endAtOnce w r s).wire = s.wire := rfl
@[simp] theorem endAtOnce_rxbuf (w : Word64) (r : Result) (s : State) : (State.endAtOnce w r s).rxbuf = s.rxbuf := rfl
@[simp] theorem endAtOnce_txpend (w : Word64) (r : Result) (s : State) : (State.endAtOnce w r s).txpend = s.txpend := rfl
@[simp] theorem endAtOnce_doneLog (w : Word64) (r : Result) (s : State) : (State.endAtOnce w r s).doneLog = s.doneLog ++ [r] := rfl
@[simp] theorem endAtOnce_readLog (w : Word64) (r : Result) (s : State) : (State.endAtOnce w r s).readLog = s.readLog := rfl
@[simp] theorem endAtOnce_draws (w : Word64) (r : Result) (s : State) : (State.endAtOnce w r s).draws = s.draws := rfl
@[simp] theorem endAtOnce_inputs (w : Word64) (r : Result) (s : State) : (State.endAtOnce w r s).inputs = s.inputs := rfl

/-! ### After the accept step of a frame-emitting command -/

@[simp] theorem launch_phase (w : Word64) (k : Kind) (f : List Byte) (s : State) : (State.launch w k f s).phase = .clear := rfl
@[simp] theorem launch_cur (w : Word64) (k : Kind) (f : List Byte) (s : State) : (State.launch w k f s).cur = w := rfl
@[simp] theorem launch_curKind (w : Word64) (k : Kind) (f : List Byte) (s : State) : (State.launch w k f s).curKind = k := rfl
@[simp] theorem launch_fb (w : Word64) (k : Kind) (f : List Byte) (s : State) : (State.launch w k f s).fb = Memory.fill f := rfl
@[simp] theorem launch_flen (w : Word64) (k : Kind) (f : List Byte) (s : State) : (State.launch w k f s).flen = BitVec.ofNat 5 f.length := rfl
@[simp] theorem launch_acc (w : Word64) (k : Kind) (f : List Byte) (s : State) : (State.launch w k f s).acc = s.acc := rfl
@[simp] theorem launch_tmr (w : Word64) (k : Kind) (f : List Byte) (s : State) : (State.launch w k f s).tmr = s.tmr := rfl
@[simp] theorem launch_res (w : Word64) (k : Kind) (f : List Byte) (s : State) : (State.launch w k f s).res = s.res := rfl
@[simp] theorem launch_resValid (w : Word64) (k : Kind) (f : List Byte) (s : State) : (State.launch w k f s).resValid = s.resValid := rfl
@[simp] theorem launch_lastOp (w : Word64) (k : Kind) (f : List Byte) (s : State) : (State.launch w k f s).lastOp = s.lastOp := rfl
@[simp] theorem launch_settleAct (w : Word64) (k : Kind) (f : List Byte) (s : State) : (State.launch w k f s).settleAct = s.settleAct := rfl
@[simp] theorem launch_settleDeact (w : Word64) (k : Kind) (f : List Byte) (s : State) : (State.launch w k f s).settleDeact = s.settleDeact := rfl
@[simp] theorem launch_settleLoad (w : Word64) (k : Kind) (f : List Byte) (s : State) : (State.launch w k f s).settleLoad = s.settleLoad := rfl
@[simp] theorem launch_settleJog (w : Word64) (k : Kind) (f : List Byte) (s : State) : (State.launch w k f s).settleJog = s.settleJog := rfl
@[simp] theorem launch_idset (w : Word64) (k : Kind) (f : List Byte) (s : State) : (State.launch w k f s).idset = s.idset := rfl
@[simp] theorem launch_wire (w : Word64) (k : Kind) (f : List Byte) (s : State) : (State.launch w k f s).wire = s.wire := rfl
@[simp] theorem launch_rxbuf (w : Word64) (k : Kind) (f : List Byte) (s : State) : (State.launch w k f s).rxbuf = s.rxbuf := rfl
@[simp] theorem launch_txpend (w : Word64) (k : Kind) (f : List Byte) (s : State) : (State.launch w k f s).txpend = s.txpend := rfl
@[simp] theorem launch_doneLog (w : Word64) (k : Kind) (f : List Byte) (s : State) : (State.launch w k f s).doneLog = s.doneLog := rfl
@[simp] theorem launch_readLog (w : Word64) (k : Kind) (f : List Byte) (s : State) : (State.launch w k f s).readLog = s.readLog := rfl
@[simp] theorem launch_draws (w : Word64) (k : Kind) (f : List Byte) (s : State) : (State.launch w k f s).draws = s.draws := rfl
@[simp] theorem launch_inputs (w : Word64) (k : Kind) (f : List Byte) (s : State) : (State.launch w k f s).inputs = s.inputs := rfl

/-! ### After the clear step -/

@[simp] theorem clearStep_phase (s : State) : (clearStep s).phase = .write := rfl
@[simp] theorem clearStep_cur (s : State) : (clearStep s).cur = s.cur := rfl
@[simp] theorem clearStep_curKind (s : State) : (clearStep s).curKind = s.curKind := rfl
@[simp] theorem clearStep_fb (s : State) : (clearStep s).fb = s.fb := rfl
@[simp] theorem clearStep_flen (s : State) : (clearStep s).flen = s.flen := rfl
@[simp] theorem clearStep_acc (s : State) : (clearStep s).acc = s.acc := rfl
@[simp] theorem clearStep_tmr (s : State) : (clearStep s).tmr = s.tmr := rfl
@[simp] theorem clearStep_res (s : State) : (clearStep s).res = s.res := rfl
@[simp] theorem clearStep_resValid (s : State) : (clearStep s).resValid = s.resValid := rfl
@[simp] theorem clearStep_lastOp (s : State) : (clearStep s).lastOp = s.lastOp := rfl
@[simp] theorem clearStep_settleAct (s : State) : (clearStep s).settleAct = s.settleAct := rfl
@[simp] theorem clearStep_settleDeact (s : State) : (clearStep s).settleDeact = s.settleDeact := rfl
@[simp] theorem clearStep_settleLoad (s : State) : (clearStep s).settleLoad = s.settleLoad := rfl
@[simp] theorem clearStep_settleJog (s : State) : (clearStep s).settleJog = s.settleJog := rfl
@[simp] theorem clearStep_idset (s : State) : (clearStep s).idset = s.idset := rfl
@[simp] theorem clearStep_wire (s : State) : (clearStep s).wire = s.wire := rfl
@[simp] theorem clearStep_rxbuf (s : State) : (clearStep s).rxbuf = [] := rfl
@[simp] theorem clearStep_txpend (s : State) : (clearStep s).txpend = s.txpend := rfl
@[simp] theorem clearStep_doneLog (s : State) : (clearStep s).doneLog = s.doneLog := rfl
@[simp] theorem clearStep_readLog (s : State) : (clearStep s).readLog = s.readLog := rfl
@[simp] theorem clearStep_draws (s : State) : (clearStep s).draws = s.draws := rfl
@[simp] theorem clearStep_inputs (s : State) : (clearStep s).inputs = s.inputs := rfl

/-! ### After a change of phase -/

@[simp] theorem withPhase_phase (p : Phase) (s : State) : (State.withPhase p s).phase = p := rfl
@[simp] theorem withPhase_cur (p : Phase) (s : State) : (State.withPhase p s).cur = s.cur := rfl
@[simp] theorem withPhase_curKind (p : Phase) (s : State) : (State.withPhase p s).curKind = s.curKind := rfl
@[simp] theorem withPhase_fb (p : Phase) (s : State) : (State.withPhase p s).fb = s.fb := rfl
@[simp] theorem withPhase_flen (p : Phase) (s : State) : (State.withPhase p s).flen = s.flen := rfl
@[simp] theorem withPhase_acc (p : Phase) (s : State) : (State.withPhase p s).acc = s.acc := rfl
@[simp] theorem withPhase_tmr (p : Phase) (s : State) : (State.withPhase p s).tmr = s.tmr := rfl
@[simp] theorem withPhase_res (p : Phase) (s : State) : (State.withPhase p s).res = s.res := rfl
@[simp] theorem withPhase_resValid (p : Phase) (s : State) : (State.withPhase p s).resValid = s.resValid := rfl
@[simp] theorem withPhase_lastOp (p : Phase) (s : State) : (State.withPhase p s).lastOp = s.lastOp := rfl
@[simp] theorem withPhase_settleAct (p : Phase) (s : State) : (State.withPhase p s).settleAct = s.settleAct := rfl
@[simp] theorem withPhase_settleDeact (p : Phase) (s : State) : (State.withPhase p s).settleDeact = s.settleDeact := rfl
@[simp] theorem withPhase_settleLoad (p : Phase) (s : State) : (State.withPhase p s).settleLoad = s.settleLoad := rfl
@[simp] theorem withPhase_settleJog (p : Phase) (s : State) : (State.withPhase p s).settleJog = s.settleJog := rfl
@[simp] theorem withPhase_idset (p : Phase) (s : State) : (State.withPhase p s).idset = s.idset := rfl
@[simp] theorem withPhase_wire (p : Phase) (s : State) : (State.withPhase p s).wire = s.wire := rfl
@[simp] theorem withPhase_rxbuf (p : Phase) (s : State) : (State.withPhase p s).rxbuf = s.rxbuf := rfl
@[simp] theorem withPhase_txpend (p : Phase) (s : State) : (State.withPhase p s).txpend = s.txpend := rfl
@[simp] theorem withPhase_doneLog (p : Phase) (s : State) : (State.withPhase p s).doneLog = s.doneLog := rfl
@[simp] theorem withPhase_readLog (p : Phase) (s : State) : (State.withPhase p s).readLog = s.readLog := rfl
@[simp] theorem withPhase_draws (p : Phase) (s : State) : (State.withPhase p s).draws = s.draws := rfl
@[simp] theorem withPhase_inputs (p : Phase) (s : State) : (State.withPhase p s).inputs = s.inputs := rfl

/-! ### After taking free values -/

@[simp] theorem afterDraws_phase (n : Nat) (s : State) : (State.afterDraws n s).phase = s.phase := rfl
@[simp] theorem afterDraws_cur (n : Nat) (s : State) : (State.afterDraws n s).cur = s.cur := rfl
@[simp] theorem afterDraws_curKind (n : Nat) (s : State) : (State.afterDraws n s).curKind = s.curKind := rfl
@[simp] theorem afterDraws_fb (n : Nat) (s : State) : (State.afterDraws n s).fb = s.fb := rfl
@[simp] theorem afterDraws_flen (n : Nat) (s : State) : (State.afterDraws n s).flen = s.flen := rfl
@[simp] theorem afterDraws_acc (n : Nat) (s : State) : (State.afterDraws n s).acc = s.acc := rfl
@[simp] theorem afterDraws_tmr (n : Nat) (s : State) : (State.afterDraws n s).tmr = s.tmr := rfl
@[simp] theorem afterDraws_res (n : Nat) (s : State) : (State.afterDraws n s).res = s.res := rfl
@[simp] theorem afterDraws_resValid (n : Nat) (s : State) : (State.afterDraws n s).resValid = s.resValid := rfl
@[simp] theorem afterDraws_lastOp (n : Nat) (s : State) : (State.afterDraws n s).lastOp = s.lastOp := rfl
@[simp] theorem afterDraws_settleAct (n : Nat) (s : State) : (State.afterDraws n s).settleAct = s.settleAct := rfl
@[simp] theorem afterDraws_settleDeact (n : Nat) (s : State) : (State.afterDraws n s).settleDeact = s.settleDeact := rfl
@[simp] theorem afterDraws_settleLoad (n : Nat) (s : State) : (State.afterDraws n s).settleLoad = s.settleLoad := rfl
@[simp] theorem afterDraws_settleJog (n : Nat) (s : State) : (State.afterDraws n s).settleJog = s.settleJog := rfl
@[simp] theorem afterDraws_idset (n : Nat) (s : State) : (State.afterDraws n s).idset = s.idset := rfl
@[simp] theorem afterDraws_wire (n : Nat) (s : State) : (State.afterDraws n s).wire = s.wire := rfl
@[simp] theorem afterDraws_rxbuf (n : Nat) (s : State) : (State.afterDraws n s).rxbuf = s.rxbuf := rfl
@[simp] theorem afterDraws_txpend (n : Nat) (s : State) : (State.afterDraws n s).txpend = s.txpend := rfl
@[simp] theorem afterDraws_doneLog (n : Nat) (s : State) : (State.afterDraws n s).doneLog = s.doneLog := rfl
@[simp] theorem afterDraws_readLog (n : Nat) (s : State) : (State.afterDraws n s).readLog = s.readLog := rfl
@[simp] theorem afterDraws_draws (n : Nat) (s : State) : (State.afterDraws n s).draws = s.draws + n := rfl
@[simp] theorem afterDraws_inputs (n : Nat) (s : State) : (State.afterDraws n s).inputs = s.inputs := rfl

/-! ### After loading the timer -/

@[simp] theorem withTimer_phase (v : Word32) (s : State) : (State.withTimer v s).phase = s.phase := rfl
@[simp] theorem withTimer_cur (v : Word32) (s : State) : (State.withTimer v s).cur = s.cur := rfl
@[simp] theorem withTimer_curKind (v : Word32) (s : State) : (State.withTimer v s).curKind = s.curKind := rfl
@[simp] theorem withTimer_fb (v : Word32) (s : State) : (State.withTimer v s).fb = s.fb := rfl
@[simp] theorem withTimer_flen (v : Word32) (s : State) : (State.withTimer v s).flen = s.flen := rfl
@[simp] theorem withTimer_acc (v : Word32) (s : State) : (State.withTimer v s).acc = s.acc := rfl
@[simp] theorem withTimer_tmr (v : Word32) (s : State) : (State.withTimer v s).tmr = v := rfl
@[simp] theorem withTimer_res (v : Word32) (s : State) : (State.withTimer v s).res = s.res := rfl
@[simp] theorem withTimer_resValid (v : Word32) (s : State) : (State.withTimer v s).resValid = s.resValid := rfl
@[simp] theorem withTimer_lastOp (v : Word32) (s : State) : (State.withTimer v s).lastOp = s.lastOp := rfl
@[simp] theorem withTimer_settleAct (v : Word32) (s : State) : (State.withTimer v s).settleAct = s.settleAct := rfl
@[simp] theorem withTimer_settleDeact (v : Word32) (s : State) : (State.withTimer v s).settleDeact = s.settleDeact := rfl
@[simp] theorem withTimer_settleLoad (v : Word32) (s : State) : (State.withTimer v s).settleLoad = s.settleLoad := rfl
@[simp] theorem withTimer_settleJog (v : Word32) (s : State) : (State.withTimer v s).settleJog = s.settleJog := rfl
@[simp] theorem withTimer_idset (v : Word32) (s : State) : (State.withTimer v s).idset = s.idset := rfl
@[simp] theorem withTimer_wire (v : Word32) (s : State) : (State.withTimer v s).wire = s.wire := rfl
@[simp] theorem withTimer_rxbuf (v : Word32) (s : State) : (State.withTimer v s).rxbuf = s.rxbuf := rfl
@[simp] theorem withTimer_txpend (v : Word32) (s : State) : (State.withTimer v s).txpend = s.txpend := rfl
@[simp] theorem withTimer_doneLog (v : Word32) (s : State) : (State.withTimer v s).doneLog = s.doneLog := rfl
@[simp] theorem withTimer_readLog (v : Word32) (s : State) : (State.withTimer v s).readLog = s.readLog := rfl
@[simp] theorem withTimer_draws (v : Word32) (s : State) : (State.withTimer v s).draws = s.draws := rfl
@[simp] theorem withTimer_inputs (v : Word32) (s : State) : (State.withTimer v s).inputs = s.inputs := rfl

/-! ### After a configuration read -/

@[simp] theorem answerRead_phase (v : Word32) (s : State) : (State.answerRead v s).phase = s.phase := rfl
@[simp] theorem answerRead_cur (v : Word32) (s : State) : (State.answerRead v s).cur = s.cur := rfl
@[simp] theorem answerRead_curKind (v : Word32) (s : State) : (State.answerRead v s).curKind = s.curKind := rfl
@[simp] theorem answerRead_fb (v : Word32) (s : State) : (State.answerRead v s).fb = s.fb := rfl
@[simp] theorem answerRead_flen (v : Word32) (s : State) : (State.answerRead v s).flen = s.flen := rfl
@[simp] theorem answerRead_acc (v : Word32) (s : State) : (State.answerRead v s).acc = s.acc := rfl
@[simp] theorem answerRead_tmr (v : Word32) (s : State) : (State.answerRead v s).tmr = s.tmr := rfl
@[simp] theorem answerRead_res (v : Word32) (s : State) : (State.answerRead v s).res = s.res := rfl
@[simp] theorem answerRead_resValid (v : Word32) (s : State) : (State.answerRead v s).resValid = s.resValid := rfl
@[simp] theorem answerRead_lastOp (v : Word32) (s : State) : (State.answerRead v s).lastOp = s.lastOp := rfl
@[simp] theorem answerRead_settleAct (v : Word32) (s : State) : (State.answerRead v s).settleAct = s.settleAct := rfl
@[simp] theorem answerRead_settleDeact (v : Word32) (s : State) : (State.answerRead v s).settleDeact = s.settleDeact := rfl
@[simp] theorem answerRead_settleLoad (v : Word32) (s : State) : (State.answerRead v s).settleLoad = s.settleLoad := rfl
@[simp] theorem answerRead_settleJog (v : Word32) (s : State) : (State.answerRead v s).settleJog = s.settleJog := rfl
@[simp] theorem answerRead_idset (v : Word32) (s : State) : (State.answerRead v s).idset = s.idset := rfl
@[simp] theorem answerRead_wire (v : Word32) (s : State) : (State.answerRead v s).wire = s.wire := rfl
@[simp] theorem answerRead_rxbuf (v : Word32) (s : State) : (State.answerRead v s).rxbuf = s.rxbuf := rfl
@[simp] theorem answerRead_txpend (v : Word32) (s : State) : (State.answerRead v s).txpend = s.txpend := rfl
@[simp] theorem answerRead_doneLog (v : Word32) (s : State) : (State.answerRead v s).doneLog = s.doneLog := rfl
@[simp] theorem answerRead_readLog (v : Word32) (s : State) : (State.answerRead v s).readLog = s.readLog ++ [v] := rfl
@[simp] theorem answerRead_draws (v : Word32) (s : State) : (State.answerRead v s).draws = s.draws := rfl
@[simp] theorem answerRead_inputs (v : Word32) (s : State) : (State.answerRead v s).inputs = s.inputs := rfl

/-! ### After listing other moves -/

@[simp] theorem withInputs_phase (l : List Input) (s : State) : (State.withInputs l s).phase = s.phase := rfl
@[simp] theorem withInputs_cur (l : List Input) (s : State) : (State.withInputs l s).cur = s.cur := rfl
@[simp] theorem withInputs_curKind (l : List Input) (s : State) : (State.withInputs l s).curKind = s.curKind := rfl
@[simp] theorem withInputs_fb (l : List Input) (s : State) : (State.withInputs l s).fb = s.fb := rfl
@[simp] theorem withInputs_flen (l : List Input) (s : State) : (State.withInputs l s).flen = s.flen := rfl
@[simp] theorem withInputs_acc (l : List Input) (s : State) : (State.withInputs l s).acc = s.acc := rfl
@[simp] theorem withInputs_tmr (l : List Input) (s : State) : (State.withInputs l s).tmr = s.tmr := rfl
@[simp] theorem withInputs_res (l : List Input) (s : State) : (State.withInputs l s).res = s.res := rfl
@[simp] theorem withInputs_resValid (l : List Input) (s : State) : (State.withInputs l s).resValid = s.resValid := rfl
@[simp] theorem withInputs_lastOp (l : List Input) (s : State) : (State.withInputs l s).lastOp = s.lastOp := rfl
@[simp] theorem withInputs_settleAct (l : List Input) (s : State) : (State.withInputs l s).settleAct = s.settleAct := rfl
@[simp] theorem withInputs_settleDeact (l : List Input) (s : State) : (State.withInputs l s).settleDeact = s.settleDeact := rfl
@[simp] theorem withInputs_settleLoad (l : List Input) (s : State) : (State.withInputs l s).settleLoad = s.settleLoad := rfl
@[simp] theorem withInputs_settleJog (l : List Input) (s : State) : (State.withInputs l s).settleJog = s.settleJog := rfl
@[simp] theorem withInputs_idset (l : List Input) (s : State) : (State.withInputs l s).idset = s.idset := rfl
@[simp] theorem withInputs_wire (l : List Input) (s : State) : (State.withInputs l s).wire = s.wire := rfl
@[simp] theorem withInputs_rxbuf (l : List Input) (s : State) : (State.withInputs l s).rxbuf = s.rxbuf := rfl
@[simp] theorem withInputs_txpend (l : List Input) (s : State) : (State.withInputs l s).txpend = s.txpend := rfl
@[simp] theorem withInputs_doneLog (l : List Input) (s : State) : (State.withInputs l s).doneLog = s.doneLog := rfl
@[simp] theorem withInputs_readLog (l : List Input) (s : State) : (State.withInputs l s).readLog = s.readLog := rfl
@[simp] theorem withInputs_draws (l : List Input) (s : State) : (State.withInputs l s).draws = s.draws := rfl
@[simp] theorem withInputs_inputs (l : List Input) (s : State) : (State.withInputs l s).inputs = l := rfl

/-! ### After listing one more move -/

@[simp] theorem pushInput_phase (i : Input) (s : State) : (State.pushInput i s).phase = s.phase := rfl
@[simp] theorem pushInput_cur (i : Input) (s : State) : (State.pushInput i s).cur = s.cur := rfl
@[simp] theorem pushInput_curKind (i : Input) (s : State) : (State.pushInput i s).curKind = s.curKind := rfl
@[simp] theorem pushInput_fb (i : Input) (s : State) : (State.pushInput i s).fb = s.fb := rfl
@[simp] theorem pushInput_flen (i : Input) (s : State) : (State.pushInput i s).flen = s.flen := rfl
@[simp] theorem pushInput_acc (i : Input) (s : State) : (State.pushInput i s).acc = s.acc := rfl
@[simp] theorem pushInput_tmr (i : Input) (s : State) : (State.pushInput i s).tmr = s.tmr := rfl
@[simp] theorem pushInput_res (i : Input) (s : State) : (State.pushInput i s).res = s.res := rfl
@[simp] theorem pushInput_resValid (i : Input) (s : State) : (State.pushInput i s).resValid = s.resValid := rfl
@[simp] theorem pushInput_lastOp (i : Input) (s : State) : (State.pushInput i s).lastOp = s.lastOp := rfl
@[simp] theorem pushInput_settleAct (i : Input) (s : State) : (State.pushInput i s).settleAct = s.settleAct := rfl
@[simp] theorem pushInput_settleDeact (i : Input) (s : State) : (State.pushInput i s).settleDeact = s.settleDeact := rfl
@[simp] theorem pushInput_settleLoad (i : Input) (s : State) : (State.pushInput i s).settleLoad = s.settleLoad := rfl
@[simp] theorem pushInput_settleJog (i : Input) (s : State) : (State.pushInput i s).settleJog = s.settleJog := rfl
@[simp] theorem pushInput_idset (i : Input) (s : State) : (State.pushInput i s).idset = s.idset := rfl
@[simp] theorem pushInput_wire (i : Input) (s : State) : (State.pushInput i s).wire = s.wire := rfl
@[simp] theorem pushInput_rxbuf (i : Input) (s : State) : (State.pushInput i s).rxbuf = s.rxbuf := rfl
@[simp] theorem pushInput_txpend (i : Input) (s : State) : (State.pushInput i s).txpend = s.txpend := rfl
@[simp] theorem pushInput_doneLog (i : Input) (s : State) : (State.pushInput i s).doneLog = s.doneLog := rfl
@[simp] theorem pushInput_readLog (i : Input) (s : State) : (State.pushInput i s).readLog = s.readLog := rfl
@[simp] theorem pushInput_draws (i : Input) (s : State) : (State.pushInput i s).draws = s.draws := rfl
@[simp] theorem pushInput_inputs (i : Input) (s : State) : (State.pushInput i s).inputs = i :: s.inputs := rfl

end Sys2Proof.Machine
end

