-- ==== Sys2Proof/Laws/Ops.lean ====
section
/-! SUPPORT. For each shared operation, once, everything it can do; the statements' proofs cite these lemmas and do not unfold
the operations again. -/

namespace Sys2Proof.Machine

/-! ### Configuration -/

/-- The byte constants keep the constraint of R6. -/
theorem consts_legal : Config.consts.Legal := by
  simp only [FrameConsts.Legal, Config.consts, FrameConsts.legalise, ne_eq, Prod.mk.injEq, not_and]
  intro h0 h1
  split at h1
  · rename_i h
    rw [← h.2] at h1
    simp at h1
  · rename_i h
    exact h ⟨h0, h1⟩

/-- A legal record of byte constants is what `legalise` leaves alone. -/
theorem legalise_consts_of_legal {c : FrameConsts} (h : c.Legal) : c.legalise = c := by
  have : ¬(c.deact0 = c.act0 ∧ c.deact1 = c.act1) := fun ⟨a, b⟩ => h (by rw [a, b])
  simp [FrameConsts.legalise, this]

/-- The settle parameters keep the order of R21. -/
theorem times_legal : Config.times.Legal := by
  simp only [Config.times, SettleTimes.legalise]
  split
  · assumption
  · decide

/-- A legal record of settle parameters is what `legalise` leaves alone. -/
theorem legalise_times_of_legal {t : SettleTimes} (h : t.Legal) : t.legalise = t := by
  simp only [SettleTimes.legalise, if_pos h]

/-! ### Frames -/

@[simp] theorem activateFrame_length (c : FrameConsts) (id : Byte) : (activateFrame c id).length = 10 := rfl
@[simp] theorem deactivateFrame_length (c : FrameConsts) (id : Byte) : (deactivateFrame c id).length = 10 := rfl
@[simp] theorem loadFrame_length (c : FrameConsts) (id : Byte) : (loadFrame c id).length = 17 := rfl
@[simp] theorem jogFrame_length (c : FrameConsts) (id flag : Byte) (code : Code) : (jogFrame c id flag code).length = 17 :=
  rfl

/-- A frame has 10 or 17 bytes (R62). -/
theorem IsFrame.length {k : Kind} {f : List Byte} (h : IsFrame k f) : f.length = 10 ∨ f.length = 17 := by
  cases k
  · obtain ⟨_, rfl⟩ := h; exact .inl rfl
  · obtain ⟨_, rfl⟩ := h; exact .inl rfl
  · obtain ⟨_, rfl⟩ := h; exact .inr rfl
  · obtain ⟨_, _, _, rfl⟩ := h; exact .inr rfl

/-- A frame fits the frame buffer (R15). -/
theorem IsFrame.length_le {k : Kind} {f : List Byte} (h : IsFrame k f) : f.length ≤ fbSize := by
  rcases h.length with h | h <;> rw [h] <;> decide

/-! ### The accept step -/

theorem whenReady_idle {act : State → State} {s : State} (h : s.phase = .idle) : whenReady act s = .next (act s) :=
  if_pos h

theorem whenReady_busy {act : State → State} {s : State} (h : s.phase ≠ .idle) : whenReady act s = .next s :=
  if_neg h

theorem whenReady_next {act : State → State} {s t : State} (h : whenReady act s = .next t) :
    (s.phase = .idle ∧ t = act s) ∨ (s.phase ≠ .idle ∧ t = s) := by
  by_cases hp : s.phase = .idle
  · rw [whenReady_idle hp] at h; injection h with h; exact .inl ⟨hp, h.symm⟩
  · rw [whenReady_busy hp] at h; injection h with h; exact .inr ⟨hp, h.symm⟩

/-- Choosing a speed code changes the draw counter alone. -/
theorem afterChoice_eq (c : Option Code) (s : State) :
    s.afterChoice c = s.afterDraws (if c = none then 1 else 0) := by
  cases c <;> rfl

/-- A jog is an accept step with a frame of kind JOG, after a possible draw. -/
theorem performJog_eq (w : Word64) (id : Byte) (v : Speed) (flag : Byte) (s : State) :
    performJog w id v flag s =
      State.launch w .jog (jogFrame Config.consts id flag (s.chosenCode (speedCode v)))
        (s.afterDraws (if speedCode v = none then 1 else 0)) := by
  rw [performJog, afterChoice_eq]

/-- What a port access can do to the state. -/
inductive PortEffect (s : State) : State → Prop where
  /-- A command presented while busy, or an ignored configuration write: nothing. -/
  | nothing : PortEffect s s
  /-- A command that emits no frame completes at once. -/
  | ended (w : Word64) (r : Result) (hidle : s.phase = .idle) : PortEffect s (s.endAtOnce w r)
  /-- A frame-emitting command is accepted, `d` draws being taken. -/
  | launched (w : Word64) (k : Kind) (f : List Byte) (d : Nat) (hidle : s.phase = .idle) (hf : IsFrame k f)
      (hw : kindOfOp (opField w) = some k) : PortEffect s (State.launch w k f (s.afterDraws d))
  /-- A configuration read is answered. -/
  | answered (v : Word32) : PortEffect s (s.answerRead v)
  /-- A configuration write of an idle block. -/
  | configured (n : Nat) (v : Word32) (hidle : s.phase = .idle) : PortEffect s (s.storeCR n v)

theorem performJog_effect (w : Word64) (id : Byte) (v : Speed) (flag : Byte) (s : State) (h : s.phase = .idle)
    (hw : kindOfOp (opField w) = some .jog) : PortEffect s (performJog w id v flag s) := by
  rw [performJog_eq]
  exact .launched w .jog _ _ h ⟨_, _, _, rfl⟩ hw

/-- Every instruction answers a next state, and that state is one of the effects. -/
theorem exec_effect (i : Instr) (s : State) : ∃ t, exec i s = .next t ∧ PortEffect s t := by
  cases i with
  | cfgrd n => exact ⟨_, rfl, .answered _⟩
  | cfgwr n v =>
    refine ⟨_, rfl, ?_⟩
    by_cases h : s.phase = .idle
    · rw [State.writeCR, if_pos h]; exact .configured n v h
    · rw [State.writeCR, if_neg h]; exact .nothing
  | _ =>
    by_cases h : s.phase = .idle
    · refine ⟨_, whenReady_idle h, ?_⟩
      first
      | exact .launched _ .act _ 0 h ⟨_, rfl⟩ (by simp [kindOfOp])
      | exact .launched _ .deact _ 0 h ⟨_, rfl⟩ (by simp [kindOfOp])
      | exact .launched _ .load _ 0 h ⟨_, rfl⟩ (by simp [kindOfOp])
      | exact performJog_effect _ _ _ _ _ h (by simp [kindOfOp])
      | exact .ended _ _ h
      | unfold performBridge
        split
        · exact .ended _ _ h
        · split
          · exact performJog_effect _ _ _ _ _ h (by simp [kindOfOp])
          · exact .ended _ _ h
    · exact ⟨s, whenReady_busy h, .nothing⟩

/-- No instruction reads or changes the list of moves to come. -/
theorem exec_withInputs (i : Instr) (l : List Input) (s : State) :
    exec i (s.withInputs l) = mapNext (State.withInputs l) (exec i s) := by
  have ready : ∀ act : State → State, act (s.withInputs l) = (act s).withInputs l →
      whenReady act (s.withInputs l) = mapNext (State.withInputs l) (whenReady act s) := fun act h => by
    by_cases hp : s.phase = .idle
    · rw [whenReady_idle hp, whenReady_idle (by exact hp), h]; rfl
    · rw [whenReady_busy hp, whenReady_busy (by exact hp)]; rfl
  have jog : ∀ w id v flag, performJog w id v flag (s.withInputs l) = (performJog w id v flag s).withInputs l :=
    fun w id v flag => by simp only [performJog_eq]; rfl
  cases i with
  | bridge ident len d rsv =>
    refine ready _ ?_
    have h : bridgeAccepts ident len (s.withInputs l) = bridgeAccepts ident len s := rfl
    simp only [performBridge, h]
    split
    · rfl
    · split
      · exact jog _ _ _ _
      · rfl
  | cfgrd n => rfl
  | cfgwr n v =>
    have store : (s.withInputs l).storeCR n v = (s.storeCR n v).withInputs l := by unfold State.storeCR; split <;> rfl
    have write : (s.withInputs l).writeCR n v = (s.writeCR n v).withInputs l := by
      rw [State.writeCR, State.writeCR, withInputs_phase, store]; split <;> rfl
    exact congrArg Host.Outcome.next write
  | jog | stop | moveat => exact ready _ (jog _ _ _ _)
  | _ => exact ready _ rfl

/-! ### The encoder's own steps -/

/-- What the encoder's own step can do. -/
inductive EncoderEffect (count : Nat) (s : State) : State → Prop where
  | idle (h : s.phase = .idle) : EncoderEffect count s s
  | clear (h : s.phase = .clear) : EncoderEffect count s (clearStep s)
  | write (f : List Byte) (h : s.phase = .write) (hf : s.fb.readRange 0 s.flen.toNat = .ok f) :
      EncoderEffect count s ((s.txWrite f count).withPhase .drain)
  | waiting (h : s.phase = .drain) (hd : s.txpend ≠ []) : EncoderEffect count s s
  | drained (h : s.phase = .drain) (hd : s.txpend = []) :
      EncoderEffect count s ((s.withTimer (s.settleOf s.curKind)).withPhase .settle)
  | tick (h : s.phase = .settle) (ht : s.tmr ≠ 0) : EncoderEffect count s (s.withTimer (s.tmr - 1))
  | done (h : s.phase = .settle) (ht : s.tmr = 0) :
      EncoderEffect count s ((s.complete s.writeResult).withPhase .idle)

theorem writeStep_next {count : Nat} {s t : State} (h : writeStep count s = .next t) :
    ∃ f, s.fb.readRange 0 s.flen.toNat = .ok f ∧ t = ((s.txWrite f count).withPhase .drain) := by
  simp only [writeStep] at h
  split at h
  · cases h
  · injection h with h; exact ⟨_, ‹_›, h.symm⟩

theorem encoderStep_next {count : Nat} {s t : State} (h : encoderStep count s = .next t) : EncoderEffect count s t := by
  simp only [encoderStep] at h
  split at h
  · injection h with h; exact h ▸ .idle ‹_›
  · injection h with h; exact h ▸ .clear ‹_›
  · obtain ⟨f, hf, rfl⟩ := writeStep_next h; exact .write f ‹_› hf
  · injection h with h
    subst h
    simp only [drainStep, State.drained, List.isEmpty_iff]
    split
    · exact .drained ‹_› ‹_›
    · exact .waiting ‹_› ‹_›
  · injection h with h
    subst h
    simp only [settleStep]
    split
    · exact .done ‹_› ‹_›
    · exact .tick ‹_› ‹_›

/-- With a whole frame in the frame buffer the encoder has its step. -/
theorem encoderStep_answers (count : Nat) (s : State)
    (h : s.phase = .write → ∃ f, s.fb.readRange 0 s.flen.toNat = .ok f) : ∃ t, encoderStep count s = .next t := by
  simp only [encoderStep]
  split
  · exact ⟨_, rfl⟩
  · exact ⟨_, rfl⟩
  · obtain ⟨f, hf⟩ := h ‹_›; exact ⟨(s.txWrite f count).withPhase .drain, by simp only [writeStep, hf]⟩
  · exact ⟨_, rfl⟩
  · exact ⟨_, rfl⟩

/-! ### One step -/

/-- What one step can do. -/
inductive StepEffect (s : State) : State → Prop where
  /-- The host uses a port. -/
  | port (a : PortAccess) (rest : List Input) (t : State) (hi : s.inputs = .port a :: rest)
      (h : exec (decode a) (s.withInputs rest) = .next t) (he : PortEffect (s.withInputs rest) t) :
      StepEffect s t
  /-- The encoder moves, as listed. -/
  | encoder (count : Nat) (rest : List Input) (t : State) (hi : s.inputs = .agent (.encoder count) :: rest)
      (he : EncoderEffect count (s.withInputs rest) t) : StepEffect s t
  /-- A byte arrives from the link. -/
  | link (b : Byte) (rest : List Input) (hi : s.inputs = .agent (.linkByte b) :: rest) :
      StepEffect s (State.linkReceive b (s.withInputs rest))
  /-- The transport sends a byte. -/
  | sends (rest : List Input) (hi : s.inputs = .agent .transportSends :: rest) :
      StepEffect s (State.transportSend (s.withInputs rest))
  /-- The block is reset. -/
  | reset (kept : Nat) (rest : List Input) (hi : s.inputs = .agent (.reset kept) :: rest) :
      StepEffect s (resetBlock kept (s.withInputs rest))
  /-- Nothing is listed and the encoder runs on. -/
  | free (t : State) (hi : s.inputs = []) (hp : s.phase ≠ .write) (he : EncoderEffect 0 s t) : StepEffect s t
  /-- Nothing is listed in the write phase: the count is a free value. -/
  | freeWrite (t : State) (hi : s.inputs = []) (hp : s.phase = .write)
      (he : EncoderEffect (Config.freeCount s.draws) (s.afterDraws 1) t) : StepEffect s t

theorem step_next {s t : State} (h : step s = .next t) : StepEffect s t := by
  unfold step nextInput at h
  cases hi : s.inputs with
  | nil =>
    rw [hi] at h
    simp only [freeRun] at h
    split at h
    · rename_i hp
      refine .freeWrite t hi hp (encoderStep_next ?_)
      rw [encoderStep, afterDraws_phase, hp]
      exact h
    · exact .free t hi ‹_› (encoderStep_next h)
  | cons m rest =>
    rw [hi] at h
    dsimp only at h
    cases m with
    | port a =>
      obtain ⟨u, hu, he⟩ := exec_effect (decode a) (s.withInputs rest)
      have : u = t := Host.Outcome.next.inj (hu.symm.trans h)
      exact .port a rest t hi h (this ▸ he)
    | agent m =>
      cases m with
      | encoder n => exact .encoder n rest t hi (encoderStep_next h)
      | linkByte b => injection h with h; exact h ▸ .link b rest hi
      | transportSends => injection h with h; exact h ▸ .sends rest hi
      | reset k => injection h with h; exact h ▸ .reset k rest hi

end Sys2Proof.Machine
end

