-- ==== Sys2Proof/Laws/PerInstr.lean ====
section
/-! SUPPORT. Families of facts about every instruction as syntax, one lemma per constructor. -/

namespace Sys2Proof.Laws

/-- The family `OpField`: a well-formed command's word carries its own `OP` in bits 2:0, and a configuration access carries no
command word (30_encoding.md R47, R57). -/
def OpField.Statement (i : Instr) : Prop :=
  WellFormed i = true →
    match i, encode i with
    | .activate _ _, .command w     => opField w = 0
    | .deactivate _ _, .command w   => opField w = 1
    | .loadparams _ _, .command w   => opField w = 2
    | .jog _ _ _ _, .command w      => opField w = 3
    | .stop _ _, .command w         => opField w = 4
    | .moveat _ _ _, .command w     => opField w = 5
    | .bridge _ _ _ _, .command w   => opField w = 6
    | .reserved7 _, .command w      => opField w = 7
    | .cfgrd n, .configRead m       => m = n
    | .cfgwr n v, .configWrite m u  => m = n ∧ u = v
    | _, _                          => False

theorem OpField.activate (id : Byte) (rsv : ReservedM) : OpField.Statement (.activate id rsv) :=
  fun _ => opField_wordM 0 id rsv

theorem OpField.deactivate (id : Byte) (rsv : ReservedM) : OpField.Statement (.deactivate id rsv) :=
  fun _ => opField_wordM 1 id rsv

theorem OpField.loadparams (id : Byte) (rsv : ReservedM) : OpField.Statement (.loadparams id rsv) :=
  fun _ => opField_wordM 2 id rsv

theorem OpField.jog (id : Byte) (speed : Word32) (flag : Byte) (rsv : ReservedJ) :
    OpField.Statement (.jog id speed flag rsv) :=
  fun _ => opField_wordJog id speed flag rsv

theorem OpField.stop (id : Byte) (rsv : ReservedM) : OpField.Statement (.stop id rsv) :=
  fun _ => opField_wordM 4 id rsv

theorem OpField.moveat (id : Byte) (speed : Word32) (rsv : ReservedMoveAt) : OpField.Statement (.moveat id speed rsv) :=
  fun _ => opField_wordMoveAt id speed rsv

theorem OpField.bridge (ident : BitVec 29) (len : Nat) (data0 : Byte) (rsv : ReservedB) :
    OpField.Statement (.bridge ident len data0 rsv) :=
  fun _ => opField_wordBridge ident len data0 rsv

theorem OpField.reserved7 (rsv : BitVec 61) : OpField.Statement (.reserved7 rsv) :=
  fun _ => opField_wordReserved7 rsv

theorem OpField.cfgrd (n : Nat) : OpField.Statement (.cfgrd n) := fun _ => rfl

theorem OpField.cfgwr (n : Nat) (value : Word32) : OpField.Statement (.cfgwr n value) := fun _ => ⟨rfl, rfl⟩

end Sys2Proof.Laws
end

