-- ==== Sys2Proof/Laws/Run.lean ====
section
/-! SUPPORT. Runs of the machine put together from steps. -/

namespace Sys2Proof.Machine

theorem Core_run_succ (M : Host.Core) (k : Nat) (s t : M.State) (h : M.step s = .next t) :
    M.run (k + 1) s = M.run k t := by
  simp [Host.Core.run, h]

theorem Core_run_add (M : Host.Core) (j k : Nat) (s t : M.State) (h : M.run j s = .next t) :
    M.run (j + k) s = M.run k t := by
  induction j generalizing s with
  | zero =>
    injection h with h
    rw [h, Nat.zero_add]
  | succ j ih =>
    cases hs : M.step s with
    | next u =>
      rw [Core_run_succ M j s u hs] at h
      rw [Nat.add_right_comm, Core_run_succ M (j + k) s u hs]
      exact ih u h
    | fault e => simp [Host.Core.run, hs] at h
    | refused r => simp [Host.Core.run, hs] at h

/-- A run of `k + 1` steps is a step and then a run. -/
theorem run_succ {k : Nat} {s t : State} (h : step s = .next t) :
    Host.Core.run Sys2Proof.core (k + 1) s = Host.Core.run Sys2Proof.core k t :=
  Core_run_succ Sys2Proof.core k s t h

/-- A run of `j + k` steps is a run of `j` and then a run of `k`. -/
theorem run_add {j k : Nat} {s t : State} (h : Host.Core.run Sys2Proof.core j s = .next t) :
    Host.Core.run Sys2Proof.core (j + k) s = Host.Core.run Sys2Proof.core k t :=
  Core_run_add Sys2Proof.core j k s t h

/-- A listed move of the encoder is its own step. -/
theorem step_of_encoder {s : State} {n : Nat} {rest : List Input} (h : s.inputs = .agent (.encoder n) :: rest) :
    step s = encoderStep n (s.withInputs rest) := by
  simp only [step, nextInput, h, agentMove]

/-- A listed port access is the instruction it decodes to. -/
theorem step_of_port {s : State} {a : PortAccess} {rest : List Input} (h : s.inputs = .port a :: rest) :
    step s = exec (decode a) (s.withInputs rest) := by
  simp only [step, nextInput, h]

/-- With nothing listed the encoder runs on. -/
theorem step_of_nothing {s : State} (h : s.inputs = []) : step s = freeRun s := by
  simp only [step, nextInput, h]

/-- Outside WRITE the encoder's next step, listed or not, is its own step on the moves that are left. -/
theorem step_of_encoderNext {s : State} {rest : List Input} (h : s.encoderNext rest) (hw : s.phase ≠ .write) :
    ∃ n, step s = encoderStep n (s.withInputs rest) := by
  rcases h with ⟨n, h⟩ | ⟨h, rfl⟩
  · exact ⟨n, step_of_encoder h⟩
  · refine ⟨0, ?_⟩
    rw [step_of_nothing h, freeRun, if_neg hw, State.withInputs, ← h]

end Sys2Proof.Machine
end

