-- ==== Sys2Proof/Laws/Speed.lean ====
section
/-! SUPPORT. The fractions the machine computes with, against the exact rationals of 41_jog.md. -/

namespace Sys2Proof.Machine

/-- The clear floor over rationals is a division of integers. -/
theorem floor_half (a d : ℕ) (hd : 0 < d) : ⌊(a : ℚ) / d + 1 / 2⌋ = ((2 * a + d) / (2 * d) : ℕ) := by
  have hd' : (d : ℚ) ≠ 0 := by positivity
  have h : (a : ℚ) / d + 1 / 2 = ((2 * a + d : ℕ) : ℚ) / ((2 * d : ℕ) : ℚ) := by
    push_cast
    field_simp
  rw [h]
  exact Rat.floor_natCast_div_natCast _ _

/-- The machine's rounding of a fraction is `rnd` of R78. -/
theorem roundAway_eq_rnd (num : ℤ) (den : ℕ) (hd : 0 < den) : roundAway num den = rnd ((num : ℚ) / den) := by
  have hd' : (0 : ℚ) < den := by exact_mod_cast hd
  by_cases hn : num < 0
  · have hneg : ¬(0 : ℚ) ≤ (num : ℚ) / den := by
      have : (num : ℚ) < 0 := by exact_mod_cast hn
      exact not_le.mpr (div_neg_of_neg_of_pos this hd')
    have habs : -((num : ℚ) / den) = (num.natAbs : ℚ) / den := by
      rw [← neg_div, Nat.cast_natAbs, abs_of_neg hn]
      push_cast
      ring
    rw [roundAway, if_pos hn, rnd, if_neg hneg, habs, floor_half _ _ hd]
  · have hpos : (0 : ℚ) ≤ (num : ℚ) / den := by
      have : (0 : ℚ) ≤ num := by exact_mod_cast not_lt.mp hn
      exact div_nonneg this hd'.le
    have habs : (num : ℚ) / den = (num.natAbs : ℚ) / den := by
      rw [Nat.cast_natAbs, abs_of_nonneg (not_lt.mp hn)]
    rw [roundAway, if_neg hn, rnd, if_pos hpos, habs, floor_half _ _ hd]

theorem rnd_zero : rnd 0 = 0 := by norm_num [rnd]

/-- `rnd(-q) = -rnd(q)` (R78). -/
theorem rnd_neg (q : ℚ) : rnd (-q) = -rnd q := by
  rcases lt_trichotomy q 0 with h | h | h
  · rw [rnd, rnd, if_pos (by linarith), if_neg (by linarith)]
    simp
  · subst h
    norm_num [rnd]
  · rw [rnd, rnd, if_neg (by linarith), if_pos (by linarith)]
    simp

/-- `rnd` is nearest: it is within one half. -/
theorem abs_rnd_sub_le (q : ℚ) : |(rnd q : ℚ) - q| ≤ 1 / 2 := by
  rw [rnd, abs_le]
  split
  · have h1 := Int.floor_le (q + 1 / 2)
    have h2 := Int.lt_floor_add_one (q + 1 / 2)
    constructor <;> linarith
  · have h1 := Int.floor_le (-q + 1 / 2)
    have h2 := Int.lt_floor_add_one (-q + 1 / 2)
    push_cast
    constructor <;> linarith

/-- `rnd` does not change the order. -/
theorem rnd_mono {q r : ℚ} (h : q ≤ r) : rnd q ≤ rnd r := by
  unfold rnd
  split <;> split
  · exact Int.floor_le_floor (by linarith)
  · linarith
  · have h1 : 0 ≤ ⌊-q + 1 / 2⌋ := Int.floor_nonneg.mpr (by linarith)
    have h2 : 0 ≤ ⌊r + 1 / 2⌋ := Int.floor_nonneg.mpr (by linarith)
    omega
  · exact neg_le_neg (Int.floor_le_floor (by linarith))

theorem rnd_nonneg {q : ℚ} (h : 0 ≤ q) : 0 ≤ rnd q := by
  rw [rnd, if_pos h]
  exact Int.floor_nonneg.mpr (by linarith)

/-- `R = rnd(|v| * 3283)` of a fraction. -/
theorem scaledMagnitude_eq (num : ℤ) (den : ℕ) (hd : 0 < den) :
    (scaledMagnitude num den : ℤ) = rnd (|(num : ℚ) / den| * 3283) := by
  have hd' : (0 : ℚ) < den := by exact_mod_cast hd
  have hr : roundAway (num * scale) den = rnd ((num : ℚ) / den * 3283) := by
    rw [roundAway_eq_rnd _ _ hd]
    congr 1
    simp only [scale]
    push_cast
    ring
  rw [scaledMagnitude, hr, Int.natCast_natAbs]
  rcases le_total 0 ((num : ℚ) / den) with h | h
  · rw [abs_of_nonneg h, abs_of_nonneg (rnd_nonneg (by linarith))]
  · rw [abs_of_nonpos h, neg_mul, rnd_neg, abs_of_nonpos]
    have := rnd_nonneg (q := -((num : ℚ) / den * 3283)) (by linarith)
    rw [rnd_neg] at this
    omega

/-- A finite pattern denotes a fraction whose value is `val`. -/
theorem decodeSpeed_finite {p : Word32} {v : ℚ} (h : val p = some v) :
    ∃ num den, decodeSpeed p = .finite num den ∧ 0 < den ∧ v = (num : ℚ) / den := by
  unfold val at h
  unfold decodeSpeed
  have hs : signFactor p * (significand p : ℚ) = (signedSignificand p : ℚ) := by
    unfold signFactor signedSignificand
    split <;> push_cast <;> ring
  split at h
  · cases h
  · rw [if_neg ‹_›]
    split at h
    · rw [if_pos ‹_›]
      refine ⟨_, _, rfl, by positivity, ?_⟩
      injection h with h
      have hsig : significand p = fractionField p := if_pos ‹_›
      rw [← h, ← hs, hsig]
      push_cast
      rw [zpow_neg, div_eq_mul_inv]
      norm_cast
    · rw [if_neg ‹_›]
      have hsig : significand p = 2 ^ 23 + fractionField p := if_neg ‹_›
      injection h with h
      rw [← hsig, hs] at h
      split
      · refine ⟨_, _, rfl, by positivity, ?_⟩
        rw [← h]
        have he : ((exponentField p : ℤ) - 150) = -((150 - exponentField p : ℕ) : ℤ) := by omega
        rw [he, zpow_neg, div_eq_mul_inv]
        push_cast
        norm_cast
      · refine ⟨_, _, rfl, by norm_num, ?_⟩
        rw [← h]
        have he : ((exponentField p : ℤ) - 150) = ((exponentField p - 150 : ℕ) : ℤ) := by omega
        rw [he, zpow_natCast]
        push_cast
        ring

/-- A pattern without a value is an infinity or a NaN (R76). -/
theorem decodeSpeed_of_val_none {p : Word32} (h : val p = none) :
    (∃ b, decodeSpeed p = .infinite b) ∨ decodeSpeed p = .nan := by
  unfold val at h
  split at h
  · unfold decodeSpeed
    rw [if_pos ‹_›]
    split
    · exact .inl ⟨_, rfl⟩
    · exact .inr rfl
  · split at h <;> cases h

/-- The code of a fraction: the formula of R77 where it fits, none where it does not (R81). -/
theorem finiteSpeedCode_spec (num : ℤ) (den : ℕ) (hd : 0 < den) :
    (rnd (|(num : ℚ) / den| * 3283) ≤ 32767 →
      finiteSpeedCode num den = some (BitVec.ofInt 16 (codeFormula ((num : ℚ) / den))) ∧
      0 ≤ codeFormula ((num : ℚ) / den) ∧ codeFormula ((num : ℚ) / den) < 65536) ∧
    (32767 < rnd (|(num : ℚ) / den| * 3283) → finiteSpeedCode num den = none) := by
  have hd' : (0 : ℚ) < den := by exact_mod_cast hd
  have hR := scaledMagnitude_eq num den hd
  have hr : roundAway (num * scale) den = rnd ((num : ℚ) / den * 3283) := by
    rw [roundAway_eq_rnd _ _ hd]
    congr 1
    simp only [scale]
    push_cast
    ring
  have hmag : (scaledMagnitude num den : ℤ) = |rnd ((num : ℚ) / den * 3283)| := by
    rw [scaledMagnitude, hr, Int.natCast_natAbs]
  have hz : (num : ℚ) / den = 0 ↔ num = 0 := by
    rw [div_eq_zero_iff, or_iff_left hd'.ne']
    exact_mod_cast Iff.rfl
  have hp : 0 < (num : ℚ) / den ↔ 0 < num := by
    rw [div_pos_iff_of_pos_right hd']
    exact_mod_cast Iff.rfl
  rw [← hR]
  unfold finiteSpeedCode codeFormula
  simp only [hz, hp, hr]
  by_cases h0 : num = 0
  · subst h0
    refine ⟨fun _ => ⟨by simp, by norm_num, by norm_num⟩, fun h => ?_⟩
    rw [hR] at h
    norm_num [rnd] at h
  · have hsign : num < 0 → rnd ((num : ℚ) / den * 3283) ≤ 0 := fun hn => by
      have : (num : ℚ) / den < 0 := div_neg_of_neg_of_pos (by exact_mod_cast hn) hd'
      exact rnd_zero ▸ rnd_mono (q := (num : ℚ) / den * 3283) (r := 0) (by linarith)
    have hsign' : 0 < num → 0 ≤ rnd ((num : ℚ) / den * 3283) := fun hn =>
      rnd_nonneg (by have := hp.mpr hn; linarith)
    simp only [if_neg h0]
    refine ⟨fun h => ?_, fun h => ?_⟩
    · rw [if_neg (by omega)]
      split
      · have := hsign' ‹_›
        rw [abs_of_nonneg this] at hmag
        exact ⟨rfl, by omega, by omega⟩
      · have := hsign (by omega)
        rw [abs_of_nonpos this] at hmag
        exact ⟨rfl, by omega, by omega⟩
    · rw [if_pos (by omega)]

end Sys2Proof.Machine
end

