-- ==== Sys2Proof/Tests/Slice0.lean ====
section
/-! SUPPORT. Tests on values written out from spec/95_test_vectors.md (the vector is named in each docstring), and for every
statement with hypotheses a witness that meets them. -/

namespace Sys2Proof.Tests

open Sys2Proof.Machine

/-! ### Well-formedness -/

/-- `LEN` has four bits: 15 is encodable, 16 is not. -/
theorem test_wellFormed_len :
    WellFormed (.bridge 0x1C 16 0x40 ⟨0, 0, 0⟩) = false ∧ WellFormed (.bridge 0x1C 15 0x40 ⟨0, 0, 0⟩) = true := by decide

/-! ### Decoding and encoding -/

/-- The fields of format M, bit by bit from R46: `ID` in bits 15:8, `OP` in 2:0, the rest reserved (F1 with every reserved bit
set, F11, and the same `ID` under the other format M commands). -/
theorem test_decode_formatM :
    decode (.command 0xFFFFFFFFFFFF0CF8) = .activate 0x0C ⟨0x1F, 0xFFFFFFFFFFFF⟩ ∧
    decode (.command 0x000000000000FF00) = .activate 0xFF ⟨0, 0⟩ ∧
    decode (.command 0x0000000000000A01) = .deactivate 0x0A ⟨0, 0⟩ ∧
    decode (.command 0x0000000000004102) = .loadparams 0x41 ⟨0, 0⟩ ∧
    decode (.command 0x0000000000000C04) = .stop 0x0C ⟨0, 0⟩ := by decide

/-- The fields of format J (J3, J11, J12: in `MOVEAT` the place of the flag is reserved). -/
theorem test_decode_formatJ :
    decode (.command 0xBF80000000010C03) = .jog 0x0C 0xBF800000 0x01 ⟨0, 0⟩ ∧
    decode (.command 0x3E80000000FF0D03) = .jog 0x0D 0x3E800000 0xFF ⟨0, 0⟩ ∧
    decode (.command 0x3E80000000FF0C05) = .moveat 0x0C 0x3E800000 ⟨0, 0x00FF⟩ := by decide

/-- The fields of format B (B3, B7, B8, B12) and the reserved encoding (P4, step 8). -/
theorem test_decode_formatB :
    decode (.command 0x0000001E00008016) = .bridge 0x1E 1 0x80 ⟨0, 0, 0⟩ ∧
    decode (.command 0x0000001C00000006) = .bridge 0x1C 0 0x00 ⟨0, 0, 0⟩ ∧
    decode (.command 0x1FFFFFFC00007F36) = .bridge 0x1FFFFFFC 3 0x7F ⟨0, 0, 0⟩ ∧
    decode (.command 0x0000001C00004096) = .bridge 0x1C 9 0x40 ⟨0, 0, 0⟩ ∧
    decode (.command 0x0000000000000C07) = .reserved7 0x180 := by decide

/-- The configuration port carries the register number and the value as they are (D16). -/
theorem test_decode_configuration :
    decode (.configRead 5) = .cfgrd 5 ∧ decode (.configWrite 5 0x1000) = .cfgwr 5 0x1000 := by decide

/-- The encoder writes the words of J2, B1 and F5. -/
theorem test_encode :
    encode (.jog 0x0C 0x3F800000 0x01 ⟨0, 0⟩) = .command 0x3F80000000010C03 ∧
    encode (.bridge 0x1C 1 0x40 ⟨0, 0, 0⟩) = .command 0x0000001C00004016 ∧
    encode (.deactivate 0x0D ⟨0, 0⟩) = .command 0x0000000000000D01 := by decide

/-- A row's bits above its width are zero. -/
theorem test_decodeTableWord :
    decodeTableWord 64 0x0000000000000E05 = some (.moveat 0x0E 0x00000000 ⟨0, 0⟩) ∧
    decodeTableWord 16 0xFF0C02 = some (.loadparams 0x0C ⟨0, 0⟩) := by decide

/-! ### Speed codes -/

/-- S1 to S12 of the table: both branches, ties, both zeros, the smallest subnormals. -/
theorem test_speedCode_contract :
    [0x00000000, 0x3F800000, 0xBF800000, 0x3F000000, 0x3F000100, 0xBF000000, 0x3E800000, 0xBE800000, 0x3F400000, 0x3E000000,
      0x80000000, 0x00000001, 0x80000001].map (fun p => speedCode (decodeSpeed p)) =
    [0x7FFF, 0x8CD3, 0x732C, 0x866A, 0x866A, 0x7995, 0x8335, 0x7CCA, 0x899E, 0x819A, 0x7FFF, 0x8000, 0x7FFF].map some := by
  decide

/-- S13 to S21: rounding near the steps, and finite speeds beyond the contract, unclamped; S20 is a tie away from zero. -/
theorem test_speedCode_beyond :
    [0x3DCCCCCD, 0x39000000, 0x39800000, 0x3F7FFFFF, 0x3F800001, 0x40000000, 0xC0000000, 0x3FC00000, 0x411FAE14].map
      (fun p => speedCode (decodeSpeed p)) =
    [0x8148, 0x8000, 0x8001, 0x8CD3, 0x8CD3, 0x99A6, 0x6659, 0x933D, 0xFFFC].map some := by decide

/-- S22 to S25: the code is not specified. -/
theorem test_speedCode_unspecified :
    [0x41200000, 0xC1200000, 0x7F800000, 0x7FC00000].map (fun p => speedCode (decodeSpeed p)) = [none, none, none, none] := by
  decide

/-- Table T4: a row of it, and the two bytes of the clamp. -/
theorem test_bridgeSpeed :
    [0x40, 0x41, 0x42, 0x43, 0x80, 0x81, 0x82, 0x00, 0x01, 0x7F, 0xFF, 0xC0].map (fun d => speedCode (bridgeSpeed d)) =
    [0x8676, 0x8690, 0x86AA, 0x86C4, 0x732C, 0x732C, 0x7346, 0x7FFF, 0x801A, 0x8CD3, 0x7FE5, 0x7989].map some := by decide

/-! ### Frames under the illustrative constants E0 -/

/-- E0 of section 2.0: illustrative values, not the hardware's. -/
def e0 : FrameConsts :=
  { opcAct := 0x00, opcDeact := 0x00, opcLoad := 0x20, opcJog := 0x90, addr0 := 0x07, addr1 := 0xE8, act0 := 0x01,
    act1 := 0x00, deact0 := 0x00, deact1 := 0x00, psel := 0xC4, jf0 := 0x00, jf1 := 0x00, jf2 := 0x07 }

/-- F1, F5, F8. -/
theorem test_fixedFrames :
    activateFrame e0 0x0C = [0x41, 0x54, 0x00, 0x07, 0xE8, 0x0C, 0x01, 0x00, 0x0D, 0x0A] ∧
    deactivateFrame e0 0x0D = [0x41, 0x54, 0x00, 0x07, 0xE8, 0x0D, 0x00, 0x00, 0x0D, 0x0A] ∧
    loadFrame e0 0x0D =
      [0x41, 0x54, 0x20, 0x07, 0xE8, 0x0D, 0x08, 0xC4, 0x00, 0x00, 0x00, 0x00, 0x00, 0x00, 0x00, 0x0D, 0x0A] := by decide

/-- J2 and J13. -/
theorem test_jogFrames :
    jogFrame e0 0x0C 0x01 0x8CD3 =
      [0x41, 0x54, 0x90, 0x07, 0xE8, 0x0C, 0x08, 0x05, 0x70, 0x00, 0x00, 0x07, 0x01, 0x8C, 0xD3, 0x0D, 0x0A] ∧
    jogFrame e0 0x0D 0x01 0x7995 =
      [0x41, 0x54, 0x90, 0x07, 0xE8, 0x0D, 0x08, 0x05, 0x70, 0x00, 0x00, 0x07, 0x01, 0x79, 0x95, 0x0D, 0x0A] := by decide

/-- E0 meets the constraint of R6, so some constants do. -/
theorem test_e0_legal : e0.Legal := by decide

/-- The mask of R22 is the deployment's set of R7. -/
theorem test_idset_motorIds :
    ((List.range 16).filter Config.idsetReset.getLsbD).map (BitVec.ofNat 8) = Config.motorIds := by decide

/-! ### One instruction at a time -/

/-- The next state of an outcome seen through a function. -/
def seen {α : Type} (f : State → α) : Host.Outcome State Fault Refusal → Option α
  | .next t => some (f t)
  | _ => none

/-- What a jog command leaves: the phase, the length, the id, the flag and the two code bytes. -/
def jogBytes (t : State) : Phase × BitVec 5 × List (Option Byte) :=
  (t.phase, t.flen, [5, 12, 13, 14, 15, 16].map t.fb.read)

/-- What a completed command leaves: the phase, the status word, the indications given, the wire. -/
def outcome (t : State) : Phase × Word32 × List Result × List Byte := (t.phase, t.statusWord, t.doneLog, t.wire)

/-- F1: the bytes of an `ACTIVATE` that the source fixes. -/
theorem test_activate :
    seen (fun t => (t.phase, t.curKind, t.flen, [0, 1, 5, 8, 9, 10].map t.fb.read))
      (exec (.activate 0x0C ⟨0, 0⟩) State.reset) =
    some (.clear, .act, 10, [some 0x41, some 0x54, some 0x0C, some 0x0D, some 0x0A, none]) := by decide

/-- F12. -/
theorem test_deactivate :
    seen (fun t => (t.phase, t.curKind, t.flen, [0, 1, 5, 8, 9, 10].map t.fb.read))
      (exec (.deactivate 0x0A ⟨0, 0⟩) State.reset) =
    some (.clear, .deact, 10, [some 0x41, some 0x54, some 0x0A, some 0x0D, some 0x0A, none]) := by decide

/-- F13: zeros at offsets 8 to 14. -/
theorem test_loadparams :
    seen (fun t => (t.phase, t.curKind, t.flen, [5, 6, 8, 14, 15, 16].map t.fb.read))
      (exec (.loadparams 0x41 ⟨0, 0⟩) State.reset) =
    some (.clear, .load, 17, [some 0x41, some 0x08, some 0x00, some 0x00, some 0x0D, some 0x0A]) := by decide

/-- J11: the flag byte is copied. -/
theorem test_jog :
    seen jogBytes (exec (.jog 0x0D 0x3E800000 0xFF ⟨0, 0⟩) State.reset) =
    some (.clear, 17, [some 0x0D, some 0xFF, some 0x83, some 0x35, some 0x0D, some 0x0A]) := by decide

/-- S24: an infinity takes one free value and the rest of the frame is as usual. -/
theorem test_jog_infinity :
    seen (fun t => (t.phase, t.draws, [5, 12, 15].map t.fb.read)) (exec (.jog 0x0C 0x7F800000 0x00 ⟨0, 0⟩) State.reset) =
    some (.clear, 1, [some 0x0C, some 0x00, some 0x0D]) := by decide

/-- J4. -/
theorem test_stop :
    seen jogBytes (exec (.stop 0x0D ⟨0, 0⟩) State.reset) =
    some (.clear, 17, [some 0x0D, some 0x00, some 0x7F, some 0xFF, some 0x0D, some 0x0A]) := by decide

/-- J8: the code of zero, but flag 1. -/
theorem test_moveat_subnormal :
    seen jogBytes (exec (.moveat 0x0C 0x80000001 ⟨0, 0⟩) State.reset) =
    some (.clear, 17, [some 0x0C, some 0x01, some 0x7F, some 0xFF, some 0x0D, some 0x0A]) := by decide

/-- J7: negative zero gives flag 0. -/
theorem test_moveat_negativeZero :
    seen jogBytes (exec (.moveat 0x0E 0x80000000 ⟨0, 0⟩) State.reset) =
    some (.clear, 17, [some 0x0E, some 0x00, some 0x7F, some 0xFF, some 0x0D, some 0x0A]) := by decide

/-- B8 and B3: the low nibble, the code of 1.0, and the clamp. -/
theorem test_bridge_accepted :
    seen jogBytes (exec (.bridge 0x1FFFFFFC 3 0x7F ⟨0, 0, 0⟩) State.reset) =
      some (.clear, 17, [some 0x0C, some 0x01, some 0x8C, some 0xD3, some 0x0D, some 0x0A]) ∧
    seen jogBytes (exec (.bridge 0x1E 1 0x80 ⟨0, 0, 0⟩) State.reset) =
      some (.clear, 17, [some 0x0E, some 0x01, some 0x73, some 0x2C, some 0x0D, some 0x0A]) := by decide

/-- W9, B7 and B12: ignored and illegal bus frames. -/
theorem test_bridge_ended :
    [(0x05, 1), (0x1C, 0), (0x1C, 9)].map (fun x : BitVec 29 × Nat =>
      seen outcome (exec (.bridge x.1 x.2 0x40 ⟨0, 0, 0⟩) State.reset)) =
    [some (.idle, 0x6A, [.ignored], []), some (.idle, 0x6A, [.ignored], []), some (.idle, 0x6E, [.illegal], [])] := by
  decide

/-- W8. -/
theorem test_reserved7 :
    seen outcome (exec (.reserved7 0) State.reset) = some (.idle, 0x7E, [.illegal], []) := by decide

/-- CF1, CF2. -/
theorem test_cfgrd :
    seen (·.readLog) (exec (.cfgrd 0) State.reset) = some [0x00000000] ∧
    seen (·.readLog) (exec (.cfgrd 5) State.reset) = some [0x00007000] := by decide

/-- CF4, CF6, CF7. -/
theorem test_cfgwr :
    seen (·.readCR 5) (exec (.cfgwr 5 0xFFFF1000) State.reset) = some 0x00001000 ∧
    seen (·.readCR 0) (exec (.cfgwr 0 0xFFFFFFFF) State.reset) = some 0 ∧
    seen (·.readCR 6) (exec (.cfgwr 6 1) State.reset) = some 0 := by decide

/-! ### The encoder's own steps -/

/-- The frame F1 in the frame buffer, in CLEAR, right after `ACTIVATE 0x0C`. -/
def launched : State := State.launch (wordM 0 0x0C ⟨0, 0⟩) .act (activateFrame Config.consts 0x0C) State.reset

/-- The same command in WRITE. -/
def writing : State := launched.withPhase .write

/-- The same command with `n` bytes accepted, the transport drained, in SETTLE with `t` ticks to go. -/
def settling (n : Nat) (t : Word32) : State :=
  { (State.txWrite (activateFrame Config.consts 0x0C) n launched) with phase := .settle, tmr := t, txpend := [] }

/-- W5 and W6: the status after a whole and after a short write of `ACTIVATE`. -/
theorem test_settle_completes :
    seen (fun t => (t.phase, t.statusWord, t.doneLog)) (step (settling 10 0)) = some (.idle, 0x02, [.sent]) ∧
    seen (fun t => (t.phase, t.statusWord, t.doneLog)) (step (settling 9 0)) = some (.idle, 0x06, [.shortWrite]) := by decide

/-- CF8 and CF9 with `ACTIVATE`: a write while busy is dropped, and `CFGRD 0` shows BUSY. -/
theorem test_configuration_busy :
    seen (·.idset) (exec (.cfgwr 5 0) (settling 10 3)) = some 0x7000 ∧
    seen (·.readLog) (exec (.cfgrd 0) (settling 10 3)) = some [0x00000001] := by decide

/-! ### Witnesses: for each statement with hypotheses, a state and operands that meet them -/

/-- The value of a normal pattern from its three fields (R76). -/
theorem val_of_fields {p : Word32} (e m : Nat) (sg : Bool) (he : exponentField p = e) (hm : fractionField p = m)
    (hs : signBit p = sg) (h : e ≠ 255 ∧ e ≠ 0) :
    val p = some ((if sg then -1 else 1) * ((2 ^ 23 + m : ℕ) : ℚ) * (2 : ℚ) ^ ((e : ℤ) - 150)) := by
  subst he hm hs
  rw [val, if_neg h.1, if_neg h.2]
  rfl

/-- The values of a few patterns: 1, -1, 0.5 (S4), 0.5 + 2^-16 (S4b), a zero, and the last pattern before and the first one
after the codes leave sixteen bits. -/
theorem val_samples :
    val 0x3F800000 = some 1 ∧ val 0xBF800000 = some (-1) ∧ val 0x3F000000 = some (1 / 2) ∧
    val 0x3F000100 = some (1 / 2 + 1 / 65536) ∧ val 0x80000000 = some 0 ∧
    val 0x411FB205 = some (10465797 / 1048576) ∧ val 0x411FB206 = some (5232899 / 524288) := by
  refine ⟨(val_of_fields 127 0 false rfl rfl rfl (by decide)).trans ?_, (val_of_fields 127 0 true rfl rfl rfl (by decide)).trans ?_,
    (val_of_fields 126 0 false rfl rfl rfl (by decide)).trans ?_,
    (val_of_fields 126 256 false rfl rfl rfl (by decide)).trans ?_, ?_,
    (val_of_fields 130 2077189 false rfl rfl rfl (by decide)).trans ?_,
    (val_of_fields 130 2077190 false rfl rfl rfl (by decide)).trans ?_⟩
  rotate_left 4
  · rw [val, if_neg (by decide), if_pos (by decide), show fractionField 0x80000000 = 0 by decide]
    norm_num
  all_goals norm_num [zpow_neg]

/-- A NaN (S25) and an infinity (S24) have no value. -/
theorem val_none_samples : val 0x7FC00000 = none ∧ val 0x7F800000 = none := by
  constructor <;> exact if_pos (by decide)

/-- The rounded products of those values: at the edge, 32767 on one side and 32768 on the other. -/
theorem rnd_samples :
    rnd (|(1 : ℚ)| * 3283) = 3283 ∧ rnd (|(-1 : ℚ)| * 3283) = 3283 ∧ rnd (|(0 : ℚ)| * 3283) = 0 ∧
    rnd (|(10465797 / 1048576 : ℚ)| * 3283) = 32767 ∧ rnd (|(5232899 / 524288 : ℚ)| * 3283) = 32768 := by
  refine ⟨?_, ?_, ?_, ?_, ?_⟩ <;> norm_num [rnd, abs_of_pos, Int.floor_eq_iff]

theorem launched_inv : launched.Inv :=
  ⟨fill_wf _, fun _ => ⟨rfl, rfl⟩, fun _ => ⟨by decide, _, ⟨0x0C, rfl⟩, rfl, rfl, fun h => by simp [launched] at h⟩⟩

theorem settling_inv (n : Nat) (t : Word32) (h : n ≤ 10) : (settling n t).Inv := by
  refine ⟨fill_wf _, fun _ => ⟨rfl, rfl⟩, fun _ => ⟨launched_inv.2.2 (by decide) |>.1, _, ⟨0x0C, rfl⟩, rfl, rfl, fun _ => ?_⟩⟩
  have hacc : (settling n t).acc.toNat = n := by
    simp only [settling, txWrite_acc, activateFrame_length, BitVec.toNat_ofNat]
    omega
  rw [hacc]
  exact ⟨h, [], rfl⟩

theorem witness_StatusRegisterBits :
    (State.reset.Inv ∧ State.reset.resValid = false) ∧
    (exec (.cfgrd 0) launched = .next (launched.answerRead 1)) ∧ exec (.cfgwr 4 5) launched = .next launched :=
  ⟨⟨⟨by decide, fun _ => ⟨rfl, rfl⟩, fun h => absurd rfl h⟩, rfl⟩, rfl, rfl⟩

/-- For the statements about the accept step: an idle state and a busy one. -/
theorem witness_phases : State.reset.phase = .idle ∧ launched.phase ≠ .idle := by decide

theorem witness_AbsentRegistersReadZeroIgnoreWrites : 6 ≤ 6 := le_refl 6

theorem witness_DecodeOfEncode : WellFormed (.bridge 0x1FFFFFFF 15 0xFF ⟨1, 0xFFFF, 7⟩) = true := by decide

theorem witness_LatchedOperandsAreNeverRead : opField 0x3F80000000010C00 = opField launched.cur := by decide

/-- `JogFrameHoldsTheSpeedCode`, `MoveAtFrameDerivesTheFlag`, `SpeedCodeIsTheFormula`, `IntegerProcedureAgrees`: at the last
value that fits, and at a zero. -/
theorem witness_fitting_speed :
    State.reset.phase = .idle ∧
    (val 0x411FB205 = some (10465797 / 1048576) ∧ rnd (|(10465797 / 1048576 : ℚ)| * 3283) ≤ 32767) ∧
    (val 0x80000000 = some 0 ∧ rnd (|(0 : ℚ)| * 3283) ≤ 32767) :=
  ⟨rfl, ⟨val_samples.2.2.2.2.2.1, rnd_samples.2.2.2.1.le⟩, val_samples.2.2.2.2.1, by rw [rnd_samples.2.2.1]; norm_num⟩

/-- The same statements' integer procedure at that value. -/
theorem witness_IntegerProcedureAgrees : integerProcedure 0x411FB205 = 32767 ∧ integerProcedure 0x411FB206 = 32768 := by decide

/-- `JogFrameWithFreeSpeedCode`, `MoveAtFrameWithFreeSpeedCode`, `SpecialSpeedPatterns`, and the second clause of
`SpeedCodeIsTheFormula`: a NaN, an infinity, and the first value that does not fit. -/
theorem witness_unspecified_speed :
    State.reset.phase = .idle ∧ val 0x7FC00000 = none ∧
    (∀ v, val 0x7FC00000 = some v → 32767 < rnd (|v| * 3283)) ∧
    (∀ v, val 0x7F800000 = some v → 32767 < rnd (|v| * 3283)) ∧
    (∀ v, val 0x411FB206 = some v → 32767 < rnd (|v| * 3283)) := by
  refine ⟨rfl, val_none_samples.1, fun v h => ?_, fun v h => ?_, fun v h => ?_⟩
  · rw [val_none_samples.1] at h; cases h
  · rw [val_none_samples.2] at h; cases h
  · rw [val_samples.2.2.2.2.2.2] at h
    injection h with h
    rw [← h, rnd_samples.2.2.2.2]
    norm_num

/-- One and eight payload bytes, a supported candidate. -/
theorem witness_BridgeMovesTheCandidate :
    State.reset.phase = .idle ∧ (1 ≤ 1 ∧ 1 ≤ 8) ∧ (1 ≤ 8 ∧ 8 ≤ 8) ∧
    State.reset.idset.getLsbD ((0x1FFFFFFC : BitVec 29).extractLsb' 0 4).toNat = true := by decide

/-- An unsupported candidate with eight bytes, and a supported one with none. -/
theorem witness_BridgeIgnoresOtherBusFrames :
    State.reset.phase = .idle ∧
    (8 ≤ 8 ∧ (State.reset.idset.getLsbD ((0x05 : BitVec 29).extractLsb' 0 4).toNat = false ∨ 8 = 0)) ∧
    (0 ≤ 8 ∧ (State.reset.idset.getLsbD ((0x1C : BitVec 29).extractLsb' 0 4).toNat = false ∨ 0 = 0)) := by decide

/-- The two ends of the reserved lengths. -/
theorem witness_ReservedEncodingsCompleteIllegal :
    State.reset.phase = .idle ∧ (9 ≤ 9 ∧ 9 ≤ 15) ∧ (9 ≤ 15 ∧ 15 ≤ 15) := by decide

theorem witness_OnlyBridgeConsultsTheIdSet :
    (0x0000000000000C00 : Word64).extractLsb' 0 3 ≠ 6 ∧ (0x0000000000000007 : Word64).extractLsb' 0 3 ≠ 6 := by decide

/-- Two idle states that differ in what an earlier command left. -/
theorem witness_FrameDependsOnOperandsOnly :
    State.reset.phase = .idle ∧ (launched.withPhase .idle).phase = .idle ∧
    State.reset.idset = (launched.withPhase .idle).idset ∧ State.reset.draws = (launched.withPhase .idle).draws ∧
    State.reset.flen ≠ (launched.withPhase .idle).flen := by decide

/-- Speed 1 and its negation. -/
theorem witness_SpeedCodesAreOneUnitAsymmetric :
    val 0x3F800000 = some 1 ∧ (0 : ℚ) < 1 ∧ rnd (1 * 3283) ≤ 32767 := by
  refine ⟨val_samples.1, one_pos, ?_⟩
  have h := rnd_samples.1
  rw [abs_one] at h
  rw [h]
  norm_num

/-- A pair of speeds less than a unit apart, a pair at least a unit apart in the positive branch, and a pair across the sign
change. -/
theorem witness_SpeedCodeIsMonotone :
    (val 0x3F000000 = some (1 / 2) ∧ speedCode (decodeSpeed 0x3F000000) = some 0x866A) ∧
    (val 0x3F000100 = some (1 / 2 + 1 / 65536) ∧ speedCode (decodeSpeed 0x3F000100) = some 0x866A) ∧
    (val 0x3F800000 = some 1 ∧ speedCode (decodeSpeed 0x3F800000) = some 0x8CD3) ∧
    (val 0xBF800000 = some (-1) ∧ speedCode (decodeSpeed 0xBF800000) = some 0x732C) ∧
    (1 / 2 : ℚ) ≤ 1 / 2 + 1 / 65536 ∧ (0 < (1 / 2 : ℚ) ∧ (1 / 3283 : ℚ) ≤ 1 - 1 / 2) ∧ (-1 : ℚ) ≤ 1 :=
  ⟨⟨val_samples.2.2.1, by decide⟩, ⟨val_samples.2.2.2.1, by decide⟩, ⟨val_samples.1, by decide⟩,
    ⟨val_samples.2.1, by decide⟩, by norm_num, by norm_num, by norm_num⟩

/-- The two ends of the contract and its middle. -/
theorem witness_ContractSpeedsHaveCodesInRange :
    (val 0x3F800000 = some 1 ∧ |(1 : ℚ)| ≤ 1) ∧ (val 0xBF800000 = some (-1) ∧ |(-1 : ℚ)| ≤ 1) ∧
    (val 0x80000000 = some 0 ∧ |(0 : ℚ)| ≤ 1) :=
  ⟨⟨val_samples.1, by norm_num⟩, ⟨val_samples.2.1, by norm_num⟩, val_samples.2.2.2.2.1, by norm_num⟩

/-- A positive and a negative speed with their codes. -/
theorem witness_SpeedCodeRoundTripsWithinHalfAUnit :
    (val 0x3F000000 = some (1 / 2) ∧ speedCode (decodeSpeed 0x3F000000) = some 0x866A ∧ (0 : ℚ) < 1 / 2) ∧
    (val 0xBF800000 = some (-1) ∧ speedCode (decodeSpeed 0xBF800000) = some 0x732C ∧ (-1 : ℚ) < 0) :=
  ⟨⟨val_samples.2.2.1, by decide, by norm_num⟩, val_samples.2.1, by decide, by norm_num⟩

theorem witness_BridgeUsesTheLowNibbleOnly :
    (0x0C : BitVec 29).extractLsb' 0 4 = (0x1FFFFFFC : BitVec 29).extractLsb' 0 4 := by decide

/-- Both ways in which the encoder steps next, from any state: its move listed, and nothing listed. -/
theorem encoderNext_samples (s : State) :
    (s.withInputs [.agent (.encoder 3)]).encoderNext [] ∧ (s.withInputs []).encoderNext [] :=
  ⟨.inl ⟨3, rfl⟩, .inr ⟨rfl, rfl⟩⟩

theorem witness_ClearStepEmptiesTheInboundBuffer :
    ∀ l ∈ [[Input.agent (.encoder 3)], []], (launched.withInputs l).phase = .clear ∧ (launched.withInputs l).encoderNext [] := by
  intro l hl
  fin_cases hl
  · exact ⟨rfl, (encoderNext_samples launched).1⟩
  · exact ⟨rfl, (encoderNext_samples launched).2⟩

/-- `WriteStepAppendsTheAcceptedBytes` with the move listed, `UnscheduledWriteTakesAFreeCount` with nothing listed. -/
theorem witness_write_steps :
    ∀ l : List Input, (writing.withInputs l).phase = .write ∧ (activateFrame Config.consts 0x0C).length ≤ 17 ∧
      (writing.withInputs l).fb = Memory.fill (activateFrame Config.consts 0x0C) ∧
      (writing.withInputs l).flen = BitVec.ofNat 5 (activateFrame Config.consts 0x0C).length ∧
      (writing.withInputs l).inputs = l :=
  fun _ => ⟨rfl, by decide, rfl, rfl, rfl⟩

/-- The same command in DRAIN with one accepted byte pending, and with none. -/
def draining (pending : List Byte) : State := { settling 10 0 with phase := .drain, txpend := pending }

/-- Both clauses, each with a listed encoder move and with nothing listed. -/
theorem witness_DrainWaitsThenLoadsTheSettleTime :
    ∀ l ∈ [[Input.agent (.encoder 3)], []],
      (((draining [0x0A]).withInputs l).phase = .drain ∧ ((draining [0x0A]).withInputs l).encoderNext [] ∧
        ((draining [0x0A]).withInputs l).txpend ≠ []) ∧
      (((draining []).withInputs l).phase = .drain ∧ ((draining []).withInputs l).encoderNext [] ∧
        ((draining []).withInputs l).txpend = []) := by
  intro l hl
  fin_cases hl
  · exact ⟨⟨rfl, (encoderNext_samples _).1, by decide⟩, rfl, (encoderNext_samples _).1, rfl⟩
  · exact ⟨⟨rfl, (encoderNext_samples _).2, by decide⟩, rfl, (encoderNext_samples _).2, rfl⟩

/-- Both clauses, at one tick and at none to go, each with a listed encoder move and with nothing listed. -/
theorem witness_SettleCountsDownThenCompletes :
    ∀ l ∈ [[Input.agent (.encoder 3)], []],
      (((settling 10 1).withInputs l).phase = .settle ∧ ((settling 10 1).withInputs l).encoderNext [] ∧
        ((settling 10 1).withInputs l).tmr ≠ 0) ∧
      (((settling 10 0).withInputs l).phase = .settle ∧ ((settling 10 0).withInputs l).encoderNext [] ∧
        ((settling 10 0).withInputs l).tmr = 0) := by
  intro l hl
  fin_cases hl
  · exact ⟨⟨rfl, (encoderNext_samples _).1, by decide⟩, rfl, (encoderNext_samples _).1, rfl⟩
  · exact ⟨⟨rfl, (encoderNext_samples _).2, by decide⟩, rfl, (encoderNext_samples _).2, rfl⟩

theorem witness_TransportAndLinkMoves :
    (launched.withInputs [.agent .transportSends]).inputs = .agent .transportSends :: [] ∧
    (launched.withInputs [.agent (.linkByte 0x55)]).inputs = .agent (.linkByte 0x55) :: [] := ⟨rfl, rfl⟩

/-- A whole write (`n = 10`) and one that takes nothing (`n = 0`), two ticks of settling. -/
theorem witness_AcceptedCommandRunsToCompletion : ∀ n : Fin 11, ∃ s : State, ∃ f : List Byte,
    s.phase = .clear ∧ f.length ≤ 17 ∧ s.fb = Memory.fill f ∧ s.flen = BitVec.ofNat 5 f.length ∧ s.txpend = [] ∧
    s.settleOf s.curKind = 2 ∧
    s.inputs = [.agent (.encoder 0), .agent (.encoder n)] ++
      (List.replicate (min n f.length) (.agent .transportSends) ++
      (List.replicate ((s.settleOf s.curKind).toNat + 2) (.agent (.encoder 0)) ++ [])) :=
  fun n => ⟨{ launched with settleAct := 2, inputs := [.agent (.encoder 0), .agent (.encoder n)] ++
      (List.replicate (min n 10) (.agent .transportSends) ++ (List.replicate 4 (.agent (.encoder 0)) ++ [])) },
    activateFrame Config.consts 0x0C, rfl, by decide, rfl, rfl, rfl, rfl, rfl⟩

/-- A state that the moves of `PresentedCommandReachesTheWire` are listed in: two ticks of settling for every kind, a transport
that takes `n` bytes of the frame of length `len`. -/
def presented (w : Word64) (n len : Nat) : State :=
  { State.reset with
    settleAct := 2, settleJog := 2
    inputs := [.port (.command w), .agent (.encoder 0), .agent (.encoder n)] ++
      (List.replicate (min n len) (.agent .transportSends) ++ (List.replicate 4 (.agent (.encoder 0)) ++ [])) }

/-- `ACTIVATE` (F1) taken whole, `MOVEAT` (J5) not at all. -/
theorem witness_PresentedCommandReachesTheWire :
    ∀ x ∈ [((0x0C00 : Word64), 10, 10, Kind.act, (0x0C : Byte)), (0x3F00000000000E05, 0, 17, .jog, 0x0E)],
      ((presented x.1 x.2.1 x.2.2.1).phase = .idle ∧ (presented x.1 x.2.1 x.2.2.1).txpend = []) ∧
      ((x.1.extractLsb' 0 3).toNat < 6 ∧ x.2.2.2.2 = x.1.extractLsb' 8 8) ∧
      kindOfOp (x.1.extractLsb' 0 3) = some x.2.2.2.1 ∧
      x.2.2.1 = (if (x.1.extractLsb' 0 3).toNat < 2 then 10 else 17) ∧
      (presented x.1 x.2.1 x.2.2.1).inputs = [.port (.command x.1), .agent (.encoder 0), .agent (.encoder x.2.1)] ++
        (List.replicate (min x.2.1 x.2.2.1) (.agent .transportSends) ++
        (List.replicate (((presented x.1 x.2.1 x.2.2.1).settleOf x.2.2.2.1).toNat + 2) (.agent (.encoder 0)) ++ [])) := by
  intro x hx
  fin_cases hx <;> exact ⟨⟨rfl, rfl⟩, by decide, by decide, by decide, rfl⟩

/-- An accepted `BRIDGE` at both ends of its lengths: one payload byte (B1) and eight. -/
theorem witness_PresentedCommandReachesTheWire_bridge :
    ∀ w ∈ [(0x0000001C00004016 : Word64), 0x0000001C00004086],
      ((presented w 17 17).phase = .idle ∧ (presented w 17 17).txpend = []) ∧
      (w.extractLsb' 0 3 = 6 ∧ 1 ≤ (w.extractLsb' 4 4).toNat ∧ (w.extractLsb' 4 4).toNat ≤ 8 ∧
        (presented w 17 17).idset.getLsbD (w.extractLsb' 32 4).toNat = true ∧
        (0x0C : Byte) = (w.extractLsb' 32 4).setWidth 8) ∧
      kindOfOp (w.extractLsb' 0 3) = some .jog ∧ 17 = (if (w.extractLsb' 0 3).toNat < 2 then 10 else 17) ∧
      (presented w 17 17).inputs = [.port (.command w), .agent (.encoder 0), .agent (.encoder 17)] ++
        (List.replicate (min 17 17) (.agent .transportSends) ++
        (List.replicate (((presented w 17 17).settleOf .jog).toNat + 2) (.agent (.encoder 0)) ++ [])) := by
  intro w hw
  fin_cases hw <;> exact ⟨⟨rfl, rfl⟩, by decide, by decide, by decide, rfl⟩

/-- Three steps, three ticks to go, other agents moving meanwhile. -/
theorem witness_SettleTimeIsALowerBound :
    let s := (settling 10 3).withInputs [.agent (.linkByte 0x55), .port (.command 0x0C04), .agent (.encoder 0)]
    s.phase = .settle ∧ 3 ≤ s.tmr.toNat ∧ ∀ kept, Input.agent (.reset kept) ∉ s.inputs.take 3 := by
  refine ⟨rfl, by decide, fun kept h => ?_⟩
  simp [State.withInputs] at h

theorem witness_StepRunsThePresentedInstruction :
    WellFormed (.cfgwr 5 0x1000) = true ∧
    (State.reset.withInputs [.port (encode (.cfgwr 5 0x1000))]).inputs = .port (encode (.cfgwr 5 0x1000)) :: [] := ⟨rfl, rfl⟩

theorem witness_IdleBlockDoesNothing :
    (State.reset.withInputs [.agent (.encoder 3)]).phase = .idle ∧ (State.reset.withInputs [.agent (.encoder 3)]).encoderNext [] ∧
    State.reset.phase = .idle ∧ State.reset.encoderNext [] := ⟨rfl, .inl ⟨3, rfl⟩, rfl, .inr ⟨rfl, rfl⟩⟩

/-- A completing step without a reset, from a state with the invariant, after a whole and after a short write. -/
theorem witness_completing_step : ∀ n : Fin 11,
    (settling n 0).Inv ∧ (settling n 0).notReset ∧ (settling n 0).phase = .settle ∧
    step (settling n 0) = .next (settleStep (settling n 0)) ∧ (settleStep (settling n 0)).phase = .idle :=
  fun n => ⟨settling_inv n 0 (by omega), fun _ _ h => by simp [settling, launched, State.reset] at h, rfl, rfl, rfl⟩

/-- A step of a busy block that takes the next phase, for `PhasesFollowInOrder`, `ConfigurationIsStableWhileBusy`,
`EveryStepKeepsTheInvariant` and `TheBlockNeverStops`. -/
theorem witness_busy_step :
    launched.Inv ∧ launched.notReset ∧ launched.phase ≠ .idle ∧ step launched = .next (clearStep launched) :=
  ⟨launched_inv, fun _ _ h => by simp [launched, State.reset] at h, by decide, rfl⟩

/-- A write step, for `WireGrowsOnlyInTheWriteStep`: bytes are taken. -/
theorem witness_WireGrowsOnlyInTheWriteStep :
    (writing.withInputs [.agent (.encoder 5)]).notReset ∧
    (∃ t, step (writing.withInputs [.agent (.encoder 5)]) = .next t ∧ t.wire.length = 5) :=
  ⟨fun _ _ h => by simp [State.withInputs] at h, _, rfl, rfl⟩

/-- Reset in an idle block, before the write, and after it. -/
theorem witness_ResetAbandonsTheCommand :
    ∀ s ∈ [State.reset, launched, (settling 10 3).withPhase .drain],
      (s.withInputs [.agent (.reset 4)]).inputs = .agent (.reset 4) :: [] ∧
      (s.phase = .idle ∨
        ((activateFrame Config.consts 0x0C).length ≤ 17 ∧ s.fb = Memory.fill (activateFrame Config.consts 0x0C) ∧
          s.flen = BitVec.ofNat 5 (activateFrame Config.consts 0x0C).length)) := by
  intro s hs
  fin_cases hs
  · exact ⟨rfl, .inl rfl⟩
  · exact ⟨rfl, .inr ⟨by decide, rfl, rfl⟩⟩
  · exact ⟨rfl, .inr ⟨by decide, rfl, rfl⟩⟩

end Sys2Proof.Tests
end

section
/-! PROOFS. The bits of the status register, what a step does to the recorded result, and the register numbers that do not
exist (10_state.md R20, R23). -/

namespace Sys2Proof.Machine

/-! ### The bits of the status register -/

theorem readCR_status (s : State) : s.readCR 0 = s.statusWord := rfl

/-- The layout of R20, bit by bit. -/
theorem statusWord_getLsbD (s : State) (i : Nat) : s.statusWord.getLsbD i =
    if i = 0 then s.busy
    else if i = 1 then s.resValid
    else if i < 4 then s.res.code.getLsbD (i - 2)
    else s.lastOp.getLsbD (i - 4) := by
  simp only [State.statusWord, BitVec.getLsbD_append, BitVec.getLsbD_ofBool]
  grind

@[simp] theorem statusWord_bit0 (s : State) : s.statusWord.getLsbD 0 = decide (s.phase ≠ .idle) := statusWord_getLsbD s 0

@[simp] theorem statusWord_bit1 (s : State) : s.statusWord.getLsbD 1 = s.resValid := statusWord_getLsbD s 1

@[simp] theorem statusWord_res (s : State) : s.statusWord.extractLsb' 2 2 = s.res.code := by
  refine BitVec.eq_of_getLsbD_eq fun i hi => ?_
  grind [statusWord_getLsbD]

@[simp] theorem statusWord_lastOp (s : State) : s.statusWord.extractLsb' 4 3 = s.lastOp := by
  refine BitVec.eq_of_getLsbD_eq fun i hi => ?_
  grind [statusWord_getLsbD]

@[simp] theorem statusWord_reserved (s : State) : s.statusWord.extractLsb' 7 25 = 0 := by
  refine BitVec.eq_of_getLsbD_eq fun i hi => ?_
  have hbeyond : s.lastOp.getLsbD (7 + i - 4) = false := BitVec.getLsbD_of_ge _ _ (by omega)
  grind [statusWord_getLsbD]

/-- Bits 6:1, the record of the last completion, leave out `BUSY`. -/
theorem statusWord_record (s : State) :
    s.statusWord.extractLsb' 1 6 = s.lastOp ++ s.res.code ++ BitVec.ofBool s.resValid := by
  refine BitVec.eq_of_getLsbD_eq fun i hi => ?_
  grind [statusWord_getLsbD, BitVec.getLsbD_ofBool]

/-! ### What a step does to the recorded result -/

/-- `RES`, `RES_VALID` and `LAST_OP` are the same in both states. -/
structure State.SameRecord (s t : State) : Prop where
  res : t.res = s.res
  resValid : t.resValid = s.resValid
  lastOp : t.lastOp = s.lastOp

/-- From `s` to `t` one command completes with the result `r`: it is indicated once and recorded with the `OP` of `CUR`. -/
structure State.Completes (r : Result) (s t : State) : Prop where
  doneLog : t.doneLog = s.doneLog ++ [r]
  res : t.res = r
  resValid : t.resValid = true
  lastOp : t.lastOp = opField t.cur

/-- The record is left alone, or a completion writes it. -/
def State.RecordMoves (s t : State) : Prop := s.SameRecord t ∨ ∃ r, State.Completes r s t

theorem statusWord_record_of_same {s t : State} (h : s.SameRecord t) :
    t.statusWord.extractLsb' 1 6 = s.statusWord.extractLsb' 1 6 := by
  rw [statusWord_record, statusWord_record, h.res, h.resValid, h.lastOp]

theorem storeCR_sameRecord (n : Nat) (v : Word32) (s : State) : s.SameRecord (s.storeCR n v) := by
  unfold State.storeCR
  split <;> exact ⟨rfl, rfl, rfl⟩

theorem PortEffect.recordMoves {s t : State} (h : PortEffect s t) : s.RecordMoves t := by
  cases h with
  | ended w r => exact .inr ⟨r, rfl, rfl, rfl, rfl⟩
  | configured n v => exact .inl (storeCR_sameRecord n v s)
  | nothing | launched | answered => exact .inl ⟨rfl, rfl, rfl⟩

theorem EncoderEffect.recordMoves {count : Nat} {s t : State} (h : EncoderEffect count s t) : s.RecordMoves t := by
  cases h with
  | done => exact .inr ⟨s.writeResult, rfl, rfl, rfl, rfl⟩
  | idle | clear | write | waiting | drained | tick => exact .inl ⟨rfl, rfl, rfl⟩

/-- The record and the indications do not depend on the list of moves or on the draw counter, so a step from a state that
differs in those alone does the same to them. -/
theorem State.RecordMoves.of_same {s s' t : State} (h : s'.RecordMoves t) (hs : s.SameRecord s')
    (hd : s'.doneLog = s.doneLog) : s.RecordMoves t := by
  rcases h with h | ⟨r, h⟩
  · exact .inl ⟨h.res.trans hs.res, h.resValid.trans hs.resValid, h.lastOp.trans hs.lastOp⟩
  · exact .inr ⟨r, hd ▸ h.doneLog, h.res, h.resValid, h.lastOp⟩

/-- R20: a step without a reset leaves `RES`, `RES_VALID` and `LAST_OP` alone unless it completes a command. -/
theorem StepEffect.recordMoves {s t : State} (h : StepEffect s t) (hr : s.notReset) : s.RecordMoves t := by
  cases h with
  | port _ _ _ _ _ he => exact he.recordMoves.of_same ⟨rfl, rfl, rfl⟩ rfl
  | encoder _ _ _ _ he => exact he.recordMoves.of_same ⟨rfl, rfl, rfl⟩ rfl
  | link | sends => exact .inl ⟨rfl, rfl, rfl⟩
  | reset kept rest hi => exact absurd hi (hr kept rest)
  | free _ _ _ he => exact he.recordMoves
  | freeWrite _ _ _ he => exact he.recordMoves.of_same ⟨rfl, rfl, rfl⟩ rfl

/-! ### The configuration accesses -/

theorem exec_cfgrd (n : Nat) (s : State) : exec (.cfgrd n) s = .next (s.answerRead (s.readCR n)) := rfl

theorem exec_cfgwr (n : Nat) (v : Word32) (s : State) : exec (.cfgwr n v) s = .next (s.writeCR n v) := rfl

@[simp] theorem answerRead_statusWord (v : Word32) (s : State) : (s.answerRead v).statusWord = s.statusWord := rfl

@[simp] theorem storeCR_statusWord (n : Nat) (v : Word32) (s : State) : (s.storeCR n v).statusWord = s.statusWord := by
  unfold State.storeCR
  split <;> rfl

@[simp] theorem writeCR_statusWord (n : Nat) (v : Word32) (s : State) : (s.writeCR n v).statusWord = s.statusWord := by
  rw [State.writeCR]
  split
  · exact storeCR_statusWord n v s
  · rfl

/-- A write that the register file ignores is ignored in every phase. -/
theorem writeCR_of_storeCR {n : Nat} {v : Word32} {s : State} (h : s.storeCR n v = s) : s.writeCR n v = s := by
  rw [State.writeCR, h, ite_self]

theorem readCR_absent {n : Nat} (h : 6 ≤ n) (s : State) : s.readCR n = 0 := by
  obtain ⟨m, rfl⟩ := Nat.exists_eq_add_of_le' h
  rfl

theorem storeCR_absent {n : Nat} (h : 6 ≤ n) (v : Word32) (s : State) : s.storeCR n v = s := by
  obtain ⟨m, rfl⟩ := Nat.exists_eq_add_of_le' h
  rfl

/-- R20: a configuration access leaves the status register as it is. -/
theorem configAccess_statusWord {s t : State} {n : Nat} {v : Word32}
    (h : exec (.cfgrd n) s = .next t ∨ exec (.cfgwr n v) s = .next t) : t.statusWord = s.statusWord := by
  rcases h with h | h
  · rw [exec_cfgrd] at h
    injection h with h
    exact h ▸ answerRead_statusWord _ s
  · rw [exec_cfgwr] at h
    injection h with h
    exact h ▸ writeCR_statusWord n v s

/-! ### The statements -/

/-- The persistence of R20, read off the register: bits 6:1 stay, or they are a completion's record. -/
theorem step_statusWord {s t : State} (hr : s.notReset) (h : step s = .next t) :
    t.statusWord.extractLsb' 1 6 = s.statusWord.extractLsb' 1 6 ∨
    ∃ r : Result, t.doneLog = s.doneLog ++ [r] ∧ t.statusWord.getLsbD 1 = true ∧
      t.statusWord.extractLsb' 2 2 = r.code ∧ t.statusWord.extractLsb' 4 3 = opField t.cur := by
  rcases (step_next h).recordMoves hr with hsame | ⟨r, hdone⟩
  · exact .inl (statusWord_record_of_same hsame)
  · refine .inr ⟨r, hdone.doneLog, ?_, ?_, ?_⟩
    · rw [statusWord_bit1, hdone.resValid]
    · rw [statusWord_res, hdone.res]
    · rw [statusWord_lastOp, hdone.lastOp]

theorem result_ok_iff (r : Result) : r.ok = true ↔ r.code = 0 ∨ r.code = 2 := by
  cases r <;> decide

/-- Settles O2: each bit from the layout of the status word, the persistence clause from what a step can do to the record. -/
theorem statusRegisterBits : Obligations.StatusRegisterBits := by
  unfold Obligations.StatusRegisterBits
  simp only [readCR_status]
  refine ⟨fun s => ?bits, fun s hinv hv => ?cleared, ?reset, fun s r => ?completed, fun s t => step_statusWord,
    fun s v => ?ignored, fun s t n v => configAccess_statusWord, ⟨rfl, rfl, rfl, rfl⟩, result_ok_iff⟩
  case bits =>
    exact ⟨statusWord_bit0 s, statusWord_bit1 s, statusWord_res s, statusWord_lastOp s, statusWord_reserved s⟩
  case cleared =>
    obtain ⟨-, hrecord, -⟩ := hinv
    obtain ⟨hres, hop⟩ := hrecord hv
    rw [statusWord_res, statusWord_lastOp, hres, hop]
    exact ⟨rfl, rfl⟩
  case reset => exact statusWord_bit1 State.reset
  case completed => exact ⟨statusWord_bit1 _, statusWord_res _, statusWord_lastOp _⟩
  case ignored => rw [exec_cfgwr, writeCR_of_storeCR rfl]

/-- Settles O5: no case of the register file reaches a number from 6 on. -/
theorem absentRegistersReadZeroIgnoreWrites : Obligations.AbsentRegistersReadZeroIgnoreWrites := by
  intro n v s h
  rw [exec_cfgrd, exec_cfgwr, readCR_absent h, writeCR_of_storeCR (storeCR_absent h v s)]
  exact ⟨rfl, rfl⟩

end Sys2Proof.Machine
end

section
/-! PROOFS. The encoding of 30_encoding.md: the frames that the accept step builds (R51, R52), the place of the speed code
(R54), the two reserved encodings (R58, R59) and the reserved bits of a command word (R60). -/

namespace Sys2Proof.Machine

/-! ### The accept step in an idle block, as a record -/

/-- An idle block takes a frame-emitting command: these five fields change, and the buffer reads as the frame. -/
theorem launch_builds {w : Word64} {k : Kind} {f : List Byte} {s : State} (hidle : s.phase = .idle)
    (hf : IsFrame k f) :
    ∃ m, whenReady (State.launch w k f) s = .next { s with
        phase := .clear, cur := w, curKind := k, fb := m, flen := BitVec.ofNat 5 f.length } ∧
      ∀ a, Memory.read m a = f[a]? :=
  ⟨Memory.fill f, whenReady_idle hidle, read_fill f hf.length_le⟩

/-- A command that emits no frame changes the latched word and the record of the last completion. -/
theorem endAtOnce_eq {w : Word64} {op : BitVec 3} (hop : opField w = op) (r : Result) (s : State) :
    s.endAtOnce w r = { s with
      cur := w, res := r, resValid := true, lastOp := op, doneLog := s.doneLog ++ [r] } := by
  subst hop
  rfl

theorem exec_reserved7_idle (rsv : BitVec 61) {s : State} (hidle : s.phase = .idle) :
    exec (.reserved7 rsv) s = .next (s.endAtOnce (wordReserved7 rsv) .illegal) :=
  whenReady_idle hidle

/-- R59: an idle block ends a `BRIDGE` of a reserved length before it looks at the candidate. -/
theorem exec_bridge_reservedLength {ident : BitVec 29} {len : Nat} {d : Byte} {rsv : ReservedB} {s : State}
    (hidle : s.phase = .idle) (hlen : 8 < len) :
    exec (.bridge ident len d rsv) s = .next (s.endAtOnce (wordBridge ident len d rsv) .illegal) := by
  have hact : performBridge (wordBridge ident len d rsv) ident len d s =
      s.endAtOnce (wordBridge ident len d rsv) .illegal := if_pos hlen
  rw [← hact]
  exact whenReady_idle hidle

theorem exec_jog_idle (id : Byte) (p : Word32) (flag : Byte) (rsv : ReservedJ) {s : State} (hidle : s.phase = .idle) :
    exec (.jog id p flag rsv) s = .next (performJog (wordJog id p flag rsv) id (decodeSpeed p) flag s) :=
  whenReady_idle hidle

@[simp] theorem performJog_fb (w : Word64) (id : Byte) (v : Speed) (flag : Byte) (s : State) :
    (performJog w id v flag s).fb = Memory.fill (jogFrame Config.consts id flag (s.chosenCode (speedCode v))) := rfl

/-! ### Bytes of the frame buffer that are read are written back unchanged -/

theorem mem_of_read {m : Memory} {a : Nat} {v : Byte} (h : m.read a = some v) : (a, v) ∈ m := by
  induction m with
  | nil => cases h
  | cons c m ih =>
    obtain ⟨b, x⟩ := c
    rw [Memory.read] at h
    split at h
    next hab =>
      injection h with hx
      rw [hab, hx]
      exact List.mem_cons_self
    next => exact List.mem_cons_of_mem _ (ih h)

theorem insert_of_read {m : Memory} {a : Nat} {v : Byte} (hm : m.Pairwise (fun x y => x.1 < y.1))
    (h : m.read a = some v) : m.insert a v = m := by
  induction m with
  | nil => cases h
  | cons c m ih =>
    obtain ⟨b, x⟩ := c
    obtain ⟨hb, hm⟩ := List.pairwise_cons.mp hm
    rw [Memory.read] at h
    split at h
    next hab =>
      injection h with hx
      simp [Memory.insert, hab, hx]
    next hab =>
      have hlt : b < a := hb _ (mem_of_read h)
      simp [Memory.insert, hab, hlt.not_gt, ih hm h]

theorem lt_fbSize_of_read {m : Memory} {a : Nat} {v : Byte} (hm : m.wf) (h : m.read a = some v) : a < fbSize :=
  hm.2 _ (mem_of_read h)

theorem readByte_of_read {m : Memory} {a : Nat} {v : Byte} (hm : m.wf) (h : m.read a = some v) :
    m.readByte a = .ok v := by
  rw [Memory.readByte, if_pos (lt_fbSize_of_read hm h), h]

theorem writeByte_of_read {m : Memory} {a : Nat} {v : Byte} (hm : m.wf) (h : m.read a = some v) :
    m.writeByte a v = .ok m := by
  rw [Memory.writeByte, if_pos (lt_fbSize_of_read hm h), insert_of_read hm.1 h]

/-! ### The two bytes of a speed code -/

theorem hi8_eq_ofNat (code : Code) : hi8 code = BitVec.ofNat 8 (code.toNat / 256) := by
  simp [hi8, BitVec.extractLsb', Nat.shiftRight_eq_div_pow]

theorem lo8_eq_ofNat (code : Code) : lo8 code = BitVec.ofNat 8 code.toNat := by
  simp [lo8, BitVec.extractLsb']

theorem bigEndian_hi8_lo8 (code : Code) : bigEndian [hi8 code, lo8 code] = code.toNat := by
  have hcode : code.toNat < 65536 := code.isLt
  simp only [bigEndian, List.foldl, hi8_eq_ofNat, lo8_eq_ofNat, BitVec.toNat_ofNat]
  omega

section TwoBytes

variable {m : Memory} {a : Nat} {code : Code}

/-- R54: `MemRead(a, 2)` of a code that lies there high byte first. -/
theorem memRead_two (hm : m.wf) (hhi : m.read a = some (hi8 code)) (hlo : m.read (a + 1) = some (lo8 code)) :
    m.memRead a 2 = .ok code.toNat := by
  have hbytes : m.readRange a 2 = .ok [hi8 code, lo8 code] := by
    simp only [Memory.readRange, readByte_of_read hm hhi, readByte_of_read hm hlo]
  rw [Memory.memRead, hbytes]
  exact congrArg _ (bigEndian_hi8_lo8 code)

/-- R54: `MemWrite(a, 2, code)` where the code already lies. -/
theorem memWrite_two (hm : m.wf) (hhi : m.read a = some (hi8 code)) (hlo : m.read (a + 1) = some (lo8 code)) :
    m.memWrite a 2 code.toNat = .ok m := by
  rw [hi8_eq_ofNat] at hhi
  rw [lo8_eq_ofNat] at hlo
  simp only [Memory.memWrite, Nat.add_zero, writeByte_of_read hm hhi, writeByte_of_read hm hlo]

end TwoBytes

/-- R77: where the formula fits, the speed code chosen for a pattern is the formula. -/
theorem chosenCode_of_fits {p : Word32} {v : ℚ} (hv : val p = some v) (hfit : rnd (|v| * 3283) ≤ 32767) (s : State) :
    ((s.chosenCode (speedCode (decodeSpeed p))).toNat : ℤ) = codeFormula v := by
  obtain ⟨num, den, hp, hd, rfl⟩ := decodeSpeed_finite hv
  obtain ⟨hcode, hlow, hhigh⟩ := (finiteSpeedCode_spec num den hd).1 hfit
  rw [hp, speedCode, hcode, State.chosenCode, BitVec.toNat_ofInt]
  omega

/-! ### The reserved bits of a command word -/

section ClearedBits

variable {n a : Nat} {w mask : Word64}

/-- A field that the mask does not touch is kept. -/
theorem extractLsb'_clear_of_kept (h : mask.extractLsb' a n = 0) :
    (w &&& ~~~ mask).extractLsb' a n = w.extractLsb' a n := by
  refine BitVec.eq_of_getLsbD_eq fun i hi => ?_
  have hbit : mask.getLsbD (a + i) = false := by simpa [hi] using congrArg (BitVec.getLsbD · i) h
  grind

/-- A field that the mask covers becomes zero. -/
theorem extractLsb'_clear_of_covered (h : mask.extractLsb' a n = BitVec.allOnes n) :
    (w &&& ~~~ mask).extractLsb' a n = 0 := by
  refine BitVec.eq_of_getLsbD_eq fun i hi => ?_
  have hbit : mask.getLsbD (a + i) = true := by simpa [hi] using congrArg (BitVec.getLsbD · i) h
  grind

end ClearedBits

/-- The instruction with the same operands and its reserved bits zero. -/
def clearReserved : Instr → Instr
  | .activate id _           => .activate id ⟨0, 0⟩
  | .deactivate id _         => .deactivate id ⟨0, 0⟩
  | .loadparams id _         => .loadparams id ⟨0, 0⟩
  | .jog id speed flag _     => .jog id speed flag ⟨0, 0⟩
  | .stop id _               => .stop id ⟨0, 0⟩
  | .moveat id speed _       => .moveat id speed ⟨0, 0⟩
  | .bridge ident len d _    => .bridge ident len d ⟨0, 0, 0⟩
  | .reserved7 _             => .reserved7 0
  | .cfgrd n                 => .cfgrd n
  | .cfgwr n v               => .cfgwr n v

theorem reservedMask_op (op : BitVec 3) : (reservedMask op).extractLsb' 0 3 = 0 := by
  revert op
  decide

/-- The masks of R46 are the reserved bits: clearing them in the word is clearing them in the instruction. -/
theorem decode_clear_reservedMask (w : Word64) :
    decode (.command (w &&& ~~~ reservedMask (opField w))) = clearReserved (decode (.command w)) := by
  have hop : opField (w &&& ~~~ reservedMask (opField w)) = opField w := extractLsb'_clear_of_kept (reservedMask_op _)
  simp only [decode, decodeCommand, hop]
  split
  case h_8 h0 h1 h2 h3 h4 h5 h6 =>
    have hlt := (opField w).isLt
    have h7 : (opField w).toNat = 7 := by grind
    simp (disch := decide) only [clearReserved, reservedMask, h7, extractLsb'_clear_of_covered]
  all_goals
    rename_i hk
    simp (disch := decide) only [clearReserved, reservedMask, hk, idField, speedField, flagField, identField, lenField,
      data0Field, reservedM, reservedJ, reservedMoveAt, reservedB, extractLsb'_clear_of_kept, extractLsb'_clear_of_covered]

/-! ### Commands that differ in the latched word alone -/

theorem sameButCurOperands_refl (s : State) : SameButCurOperands s s := ⟨rfl, rfl⟩

theorem bothNext_next {R : State → State → Prop} {t t' : State} (h : R t t') : BothNext R (.next t) (.next t') :=
  ⟨t, t', rfl, rfl, h⟩

/-- A command presented to the block relates two outcomes when its two actions are related: a busy block turns both away. -/
theorem whenReady_bothNext {R : State → State → Prop} {act act' : State → State} {s : State}
    (hact : R (act s) (act' s)) (hbusy : R s s) : BothNext R (whenReady act s) (whenReady act' s) := by
  by_cases hidle : s.phase = .idle
  · rw [whenReady_idle hidle, whenReady_idle hidle]
    exact bothNext_next hact
  · rw [whenReady_busy hidle, whenReady_busy hidle]
    exact bothNext_next hbusy

section LatchedWord

variable {w w' : Word64}

theorem launch_sameButCurOperands (hop : opField w = opField w') (k : Kind) (f : List Byte) (s : State) :
    SameButCurOperands (State.launch w k f s) (State.launch w' k f s) := ⟨rfl, hop⟩

/-- The latched word gives `LAST_OP` its `OP`, and nothing else. -/
theorem endAtOnce_sameButCurOperands (hop : opField w = opField w') (r : Result) (s : State) :
    SameButCurOperands (s.endAtOnce w r) (s.endAtOnce w' r) := by
  rw [endAtOnce_eq hop, endAtOnce_eq rfl]
  exact ⟨rfl, hop⟩

theorem performJog_sameButCurOperands (hop : opField w = opField w') (id : Byte) (v : Speed) (flag : Byte) (s : State) :
    SameButCurOperands (performJog w id v flag s) (performJog w' id v flag s) :=
  launch_sameButCurOperands hop _ _ _

theorem performBridge_sameButCurOperands (hop : opField w = opField w') (ident : BitVec 29) (len : Nat) (d : Byte)
    (s : State) : SameButCurOperands (performBridge w ident len d s) (performBridge w' ident len d s) := by
  unfold performBridge
  split
  · exact endAtOnce_sameButCurOperands hop _ s
  · split
    · exact performJog_sameButCurOperands hop _ _ _ s
    · exact endAtOnce_sameButCurOperands hop _ s

end LatchedWord

/-- R60 on instructions: the reserved bits reach the latched word and nothing else. -/
theorem exec_clearReserved (i : Instr) (s : State) :
    BothNext SameButCurOperands (exec i s) (exec (clearReserved i) s) := by
  have command {act act' : State → State} (h : SameButCurOperands (act s) (act' s)) :
      BothNext SameButCurOperands (whenReady act s) (whenReady act' s) :=
    whenReady_bothNext h (sameButCurOperands_refl s)
  cases i with
  | activate | deactivate | loadparams => exact command (launch_sameButCurOperands (by simp) _ _ s)
  | jog | stop | moveat => exact command (performJog_sameButCurOperands (by simp) _ _ _ s)
  | bridge => exact command (performBridge_sameButCurOperands (by simp) _ _ _ s)
  | reserved7 => exact command (endAtOnce_sameButCurOperands (by simp) _ s)
  | cfgrd | cfgwr => exact bothNext_next (sameButCurOperands_refl _)

/-! ### The statements -/

/-- Settles O11: clearing the reserved bits of the word clears those of the decoded instruction, which only the latched word
shows. -/
theorem reservedBitsAreIgnored : Obligations.ReservedBitsAreIgnored := by
  intro w s
  have hclear := decode_clear_reservedMask w
  rw [opField] at hclear
  rw [hclear]
  exact exec_clearReserved _ s

/-- Settles O17: the buffer holds the chosen code at offsets 13 and 14, and both accesses follow from these two bytes. -/
theorem speedCodeIsBigEndianAtThirteen : Obligations.SpeedCodeIsBigEndianAtThirteen := by
  intro id p flag rsv s hidle
  have hread := read_fill (jogFrame Config.consts id flag (s.chosenCode (speedCode (decodeSpeed p))))
    (IsFrame.length_le (k := .jog) ⟨_, _, _, rfl⟩)
  refine ⟨_, exec_jog_idle id p flag rsv hidle, s.chosenCode (speedCode (decodeSpeed p)),
    fun v hv hfit => chosenCode_of_fits hv hfit s, hread 13, hread 14, ?_, ?_⟩
  · exact memRead_two (fill_wf _) (hread 13) (hread 14)
  · exact memWrite_two (fill_wf _) (hread 13) (hread 14)

/-- Settles O13: both frames are launched whole, and the constants keep the constraint of R6. -/
theorem tenByteFramesAreBuilt : Obligations.TenByteFramesAreBuilt := by
  intro id rsv s hidle
  exact ⟨launch_builds hidle ⟨id, rfl⟩, launch_builds hidle ⟨id, rfl⟩, consts_legal⟩

/-- Settles O14: the table of R52 is `loadFrame`, launched whole. -/
theorem loadFrameIsBuilt : Obligations.LoadFrameIsBuilt := by
  intro id rsv s hidle
  exact launch_builds hidle ⟨id, rfl⟩

/-- Settles O23: both kinds of reserved encoding end at once, each with the `OP` of its word. -/
theorem reservedEncodingsCompleteIllegal : Obligations.ReservedEncodingsCompleteIllegal := by
  refine ⟨rfl, rfl, fun rsv s hidle => ⟨wordReserved7 rsv, ?_⟩,
    fun ident len d rsv s hidle hlow _ => ⟨wordBridge ident len d rsv, ?_⟩⟩
  · rw [exec_reserved7_idle rsv hidle, endAtOnce_eq (opField_wordReserved7 rsv)]
  · rw [exec_bridge_reservedLength hidle hlow, endAtOnce_eq (opField_wordBridge ident len d rsv)]

end Sys2Proof.Machine
end

section
/-! PROOFS. The fixed frames of 40_fixed_frames.md: the motor id stands at offset 5, and no other byte depends on it (R69). -/

namespace Sys2Proof.Machine

/-! ### The id as one byte of a frame -/

/-- The frame of an `n`-byte command for one motor is that for any other with the byte at offset 5 replaced. -/
structure IdAtFive (n : Nat) (f : Byte → List Byte) : Prop where
  length : ∀ id, (f id).length = n
  set_id : ∀ id id', (f id).set 5 id' = f id'

theorem activateFrame_idAtFive (c : FrameConsts) : IdAtFive 10 (activateFrame c) :=
  ⟨activateFrame_length c, fun _ _ => rfl⟩

theorem deactivateFrame_idAtFive (c : FrameConsts) : IdAtFive 10 (deactivateFrame c) :=
  ⟨deactivateFrame_length c, fun _ _ => rfl⟩

theorem loadFrame_idAtFive (c : FrameConsts) : IdAtFive 17 (loadFrame c) :=
  ⟨loadFrame_length c, fun _ _ => rfl⟩

section

variable {n : Nat} {f : Byte → List Byte} (hf : IdAtFive n f)
include hf

theorem IdAtFive.getElem?_five (hn : 5 < n) (id : Byte) : (f id)[5]? = some id := by
  rw [← hf.set_id id id]
  exact List.getElem?_set_self (by rwa [hf.length])

theorem IdAtFive.getElem?_other {a : Nat} (ha : a ≠ 5) (id id' : Byte) : (f id)[a]? = (f id')[a]? := by
  rw [← hf.set_id id id', List.getElem?_set_ne ha.symm]

/-- Two idle blocks that launch such a frame fill their buffers with bytes that differ at offset 5 alone; the command words
and what the blocks held before do not reach the frame. -/
theorem IdAtFive.launch_bothNext (h5 : 5 < n) (hn : n ≤ fbSize) (id id' : Byte) (w w' : Word64) (k : Kind) {s s' : State}
    (hidle : s.phase = .idle) (hidle' : s'.phase = .idle) :
    BothNext (fun t t' => t.flen = BitVec.ofNat 5 n ∧ t'.flen = BitVec.ofNat 5 n ∧
        Memory.read t.fb 5 = some id ∧ Memory.read t'.fb 5 = some id' ∧
        ∀ a, a ≠ 5 → Memory.read t.fb a = Memory.read t'.fb a)
      (whenReady (State.launch w k (f id)) s) (whenReady (State.launch w' k (f id')) s') := by
  have hread (i : Byte) (a : Nat) : (Memory.fill (f i)).read a = (f i)[a]? := read_fill _ ((hf.length i).trans_le hn) a
  rw [whenReady_idle hidle, whenReady_idle hidle']
  refine bothNext_next ⟨?flen, ?flen', ?id, ?id', fun a ha => ?other⟩
  case flen | flen' => rw [launch_flen, hf.length]
  case id | id' => rw [launch_fb, hread, hf.getElem?_five h5]
  case other => rw [launch_fb, launch_fb, hread, hread, hf.getElem?_other ha id id']

end

/-! ### The statement -/

/-- Settles O26: the three frames hold the id as the byte at offset 5, so launching them shows it there and nowhere else. -/
theorem fixedFramesVaryInTheIdOnly : Obligations.FixedFramesVaryInTheIdOnly := by
  intro id id' r r' s s' hidle hidle'
  exact ⟨(activateFrame_idAtFive _).launch_bothNext (by decide) (by decide) id id' _ _ _ hidle hidle',
    (deactivateFrame_idAtFive _).launch_bothNext (by decide) (by decide) id id' _ _ _ hidle hidle',
    (loadFrame_idAtFive _).launch_bothNext (by decide) (by decide) id id' _ _ _ hidle hidle'⟩

end Sys2Proof.Machine
end

section
/-! PROOFS. The speed code of 41_jog.md: it is the formula over exact rationals wherever that fits sixteen bits (R77, R81),
and the distance of a code to its branch's offset gives the speed back up to the rounding (R83). -/

namespace Sys2Proof.Machine

/-! ### The formula in its two branches -/

theorem codeFormula_of_pos {v : ℚ} (hv : 0 < v) : codeFormula v = 0x8000 + rnd (v * 3283) := by
  rw [codeFormula, if_neg hv.ne', if_pos hv]

theorem codeFormula_of_neg {v : ℚ} (hv : v < 0) : codeFormula v = 0x7FFF + rnd (v * 3283) := by
  rw [codeFormula, if_neg hv.ne, if_neg hv.not_gt]

theorem rnd_nonpos {q : ℚ} (h : q ≤ 0) : rnd q ≤ 0 := rnd_zero ▸ rnd_mono h

/-- R83 for a branch of either offset: one code unit is 1/3283 of full speed, and rounding moves the scaled speed by at most
half a unit. -/
theorem abs_decoded_sub_le {c : Code} {offset : ℤ} {v : ℚ} (hc : (c.toNat : ℤ) = offset + rnd (v * 3283)) :
    |((c.toNat : ℚ) - offset) / 3283 - v| ≤ 1 / 6566 := by
  have hcode : (c.toNat : ℚ) = offset + rnd (v * 3283) := by exact_mod_cast hc
  obtain ⟨hlow, hhigh⟩ := abs_le.mp (abs_rnd_sub_le (v * 3283))
  rw [hcode, add_sub_cancel_left, abs_le]
  constructor <;> linarith

/-! ### The block's code of a finite pattern -/

section FinitePattern

variable {p : Word32} {v : ℚ} (hv : val p = some v)
include hv

/-- R77: where the formula fits sixteen bits, the block's code is its value. -/
theorem speedCode_of_fits (hfit : rnd (|v| * 3283) ≤ 32767) :
    ∃ c, speedCode (decodeSpeed p) = some c ∧ (c.toNat : ℤ) = codeFormula v := by
  obtain ⟨num, den, hp, hd, rfl⟩ := decodeSpeed_finite hv
  obtain ⟨hcode, hlow, hhigh⟩ := (finiteSpeedCode_spec num den hd).1 hfit
  refine ⟨_, by rw [hp, speedCode, hcode], ?_⟩
  rw [BitVec.toNat_ofInt]
  omega

/-- R81: where the formula leaves sixteen bits, no code is specified. -/
theorem speedCode_of_not_fits (hbig : 32767 < rnd (|v| * 3283)) : speedCode (decodeSpeed p) = none := by
  obtain ⟨num, den, hp, hd, rfl⟩ := decodeSpeed_finite hv
  rw [hp, speedCode, (finiteSpeedCode_spec num den hd).2 hbig]

/-- A specified code is the formula's value, with no premise on the size of the speed. -/
theorem toNat_of_speedCode {c : Code} (hc : speedCode (decodeSpeed p) = some c) : (c.toNat : ℤ) = codeFormula v := by
  by_cases hfit : rnd (|v| * 3283) ≤ 32767
  · obtain ⟨c', hc', hformula⟩ := speedCode_of_fits hv hfit
    obtain rfl : c' = c := Option.some.inj (hc'.symm.trans hc)
    exact hformula
  · cases (speedCode_of_not_fits hv (not_le.mp hfit)).symm.trans hc

end FinitePattern

/-! ### The statements -/

/-- Settles O29: the code where the formula fits (R77), and none where it does not (R81). -/
theorem speedCodeIsTheFormula : Obligations.SpeedCodeIsTheFormula :=
  fun _ _ hv => ⟨speedCode_of_fits hv, speedCode_of_not_fits hv⟩

/-- Settles O35: in each branch the code less its offset is `rnd(v * 3283)`, whose sign is that of the speed and which is
within half a unit of `v * 3283`. -/
theorem speedCodeRoundTripsWithinHalfAUnit : Obligations.SpeedCodeRoundTripsWithinHalfAUnit := by
  intro p v c hv hc
  have hformula := toNat_of_speedCode hv hc
  refine ⟨fun hpos => ?positive, fun hneg => ?negative⟩
  case positive =>
    rw [codeFormula_of_pos hpos] at hformula
    have hsign : 0 ≤ rnd (v * 3283) := rnd_nonneg (by linarith)
    exact ⟨by omega, by exact_mod_cast abs_decoded_sub_le hformula⟩
  case negative =>
    rw [codeFormula_of_neg hneg] at hformula
    have hsign : rnd (v * 3283) ≤ 0 := rnd_nonpos (by linarith)
    exact ⟨by omega, by exact_mod_cast abs_decoded_sub_le hformula⟩

end Sys2Proof.Machine
end

section
/-! PROOFS. The configuration accesses of 42_transmit.md: what `CFGRD` answers (R102) and what `CFGWR` writes (R103). -/

namespace Sys2Proof.Machine

/-! ### The register file as a table over the register number -/

/-- R19 to R23: the six registers that exist, and 0 for every other number. -/
theorem readCR_eq_ite (n : Nat) (s : State) : s.readCR n =
    if n = 0 then s.statusWord
    else if n = 1 then s.settleAct
    else if n = 2 then s.settleDeact
    else if n = 3 then s.settleLoad
    else if n = 4 then s.settleJog
    else if n = 5 then s.idset.setWidth 32
    else 0 := by
  rcases Nat.lt_or_ge n 6 with hexists | habsent
  · interval_cases n <;> rfl
  · rw [readCR_absent habsent]
    repeat rw [if_neg (by omega)]

/-- R20 to R23: the five registers that can be written; register 0 and every other number leave the file as it is. -/
theorem storeCR_eq_ite (n : Nat) (v : Word32) (s : State) : s.storeCR n v =
    if n = 1 then { s with settleAct := v }
    else if n = 2 then { s with settleDeact := v }
    else if n = 3 then { s with settleLoad := v }
    else if n = 4 then { s with settleJog := v }
    else if n = 5 then { s with idset := v.extractLsb' 0 16 }
    else s := by
  rcases Nat.lt_or_ge n 6 with hexists | habsent
  · interval_cases n <;> rfl
  · rw [storeCR_absent habsent]
    repeat rw [if_neg (by omega)]

/-! ### A write by phase -/

theorem writeCR_idle {s : State} (hidle : s.phase = .idle) (n : Nat) (v : Word32) : s.writeCR n v = s.storeCR n v :=
  if_pos hidle

theorem writeCR_busy {s : State} (hbusy : s.phase ≠ .idle) (n : Nat) (v : Word32) : s.writeCR n v = s :=
  if_neg hbusy

/-! ### The statements -/

/-- Settles O3: the answer is the register file's value at `n`, in every phase; after reset `IDSET` is `0x7000`. -/
theorem cfgrdAnswersTheRegister : Obligations.CfgrdAnswersTheRegister := by
  refine ⟨fun n s => ?register, ?reset⟩
  case register =>
    rw [exec_cfgrd, readCR_eq_ite]
    rfl
  case reset =>
    have hidset : State.reset.readCR 5 = 0x00007000 := rfl
    rw [exec_cfgrd, hidset]
    rfl

/-- Settles O4: in an idle block the write is the register file's, in a busy block it is dropped. -/
theorem cfgwrWritesOnlyWhenIdle : Obligations.CfgwrWritesOnlyWhenIdle := by
  refine fun n v s => ⟨fun hidle => ?idle, fun hbusy => ?busy⟩
  case idle => rw [exec_cfgwr, writeCR_idle hidle, storeCR_eq_ite]
  case busy => rw [exec_cfgwr, writeCR_busy hbusy]

end Sys2Proof.Machine
end

section
/-! PROOFS. The candidate of a `BRIDGE` (43_bridge.md R106): the identifier's low four bits, and the only thing but the latched
word that the identifier reaches. -/

namespace Sys2Proof.Machine

/-! ### The candidate -/

theorem candidateId_toNat (ident : BitVec 29) : (candidateId ident).toNat = ident.toNat % 16 := by
  have hbyte : ident.toNat % 16 < 2 ^ 8 := (Nat.mod_lt _ (by decide)).trans (by decide)
  rw [candidateId, BitVec.toNat_setWidth, BitVec.extractLsb'_toNat, Nat.shiftRight_zero]
  exact Nat.mod_eq_of_lt hbyte

theorem candidateId_eq_of_lowNibble {x y : BitVec 29} (hlow : x.extractLsb' 0 4 = y.extractLsb' 0 4) :
    candidateId x = candidateId y :=
  congrArg (BitVec.setWidth 8) hlow

/-! ### What an identifier reaches -/

/-- For a given command word, the membership test and the move see the identifier through its candidate. -/
theorem performBridge_eq_of_candidateId {x y : BitVec 29} (hcand : candidateId x = candidateId y) (w : Word64)
    (len : Nat) (d : Byte) (s : State) : performBridge w x len d s = performBridge w y len d s := by
  rw [performBridge, performBridge, bridgeAccepts, bridgeAccepts, hcand]

/-- Identifiers with one candidate run alike: their higher bits reach the latched word, above its `OP`, and nothing else. -/
theorem exec_bridge_bothNext_of_candidateId {x y : BitVec 29} (hcand : candidateId x = candidateId y) (len : Nat)
    (d : Byte) (rsv : ReservedB) (s : State) :
    BothNext SameButCurOperands (exec (.bridge x len d rsv) s) (exec (.bridge y len d rsv) s) := by
  have hop : opField (wordBridge x len d rsv) = opField (wordBridge y len d rsv) := by
    rw [opField_wordBridge, opField_wordBridge]
  have hact := performBridge_sameButCurOperands hop x len d s
  rw [performBridge_eq_of_candidateId hcand (wordBridge y len d rsv)] at hact
  exact whenReady_bothNext hact (sameButCurOperands_refl s)

/-! ### The statement -/

/-- Settles O37: equal low nibbles give equal candidates, and the candidate is the identifier modulo 16. -/
theorem bridgeUsesTheLowNibbleOnly : Obligations.BridgeUsesTheLowNibbleOnly :=
  ⟨fun _ _ len d rsv s hlow => exec_bridge_bothNext_of_candidateId (candidateId_eq_of_lowNibble hlow) len d rsv s,
    candidateId_toNat, rfl, rfl, rfl, rfl⟩

end Sys2Proof.Machine
end

section
/-! PROOFS. The encoding of 30_encoding.md: each format's word is put together from its fields and taken apart into them, so
decoding and encoding undo each other (R46, R47), and `OP` alone tells the commands apart (R57). -/

namespace Sys2Proof

/-! ### The command of each value of `OP` -/

theorem op_cases (op : BitVec 3) :
    op = 0 ∨ op = 1 ∨ op = 2 ∨ op = 3 ∨ op = 4 ∨ op = 5 ∨ op = 6 ∨ op = 7 := by
  revert op
  decide

section CommandOfOp

variable {w : Word64}

theorem decodeCommand_op0 (h : opField w = 0) : decodeCommand w = .activate (idField w) (reservedM w) := by
  simp [decodeCommand, h]

theorem decodeCommand_op1 (h : opField w = 1) : decodeCommand w = .deactivate (idField w) (reservedM w) := by
  simp [decodeCommand, h]

theorem decodeCommand_op2 (h : opField w = 2) : decodeCommand w = .loadparams (idField w) (reservedM w) := by
  simp [decodeCommand, h]

theorem decodeCommand_op3 (h : opField w = 3) :
    decodeCommand w = .jog (idField w) (speedField w) (flagField w) (reservedJ w) := by
  simp [decodeCommand, h]

theorem decodeCommand_op4 (h : opField w = 4) : decodeCommand w = .stop (idField w) (reservedM w) := by
  simp [decodeCommand, h]

theorem decodeCommand_op5 (h : opField w = 5) :
    decodeCommand w = .moveat (idField w) (speedField w) (reservedMoveAt w) := by
  simp [decodeCommand, h]

theorem decodeCommand_op6 (h : opField w = 6) :
    decodeCommand w = .bridge (identField w) (lenField w) (data0Field w) (reservedB w) := by
  simp [decodeCommand, h]

theorem decodeCommand_op7 (h : opField w = 7) : decodeCommand w = .reserved7 (w.extractLsb' 3 61) := by
  simp [decodeCommand, h]

end CommandOfOp

/-! ### From the fields of an assembled word to the operands -/

@[simp] theorem reservedM_wordM (op : BitVec 3) (id : Byte) (rsv : ReservedM) : reservedM (wordM op id rsv) = rsv := by
  simp [reservedM]

@[simp] theorem reservedJ_wordJog (id : Byte) (p : Word32) (flag : Byte) (rsv : ReservedJ) :
    reservedJ (wordJog id p flag rsv) = rsv := by
  simp [reservedJ]

@[simp] theorem reservedMoveAt_wordMoveAt (id : Byte) (p : Word32) (rsv : ReservedMoveAt) :
    reservedMoveAt (wordMoveAt id p rsv) = rsv := by
  simp [reservedMoveAt]

@[simp] theorem reservedB_wordBridge (ident : BitVec 29) (len : Nat) (d : Byte) (rsv : ReservedB) :
    reservedB (wordBridge ident len d rsv) = rsv := by
  simp [reservedB]

/-- `LEN` has four bits: a count that fits them is read back. -/
theorem lenField_wordBridge {len : Nat} (hlen : lenFits len = true) (ident : BitVec 29) (d : Byte) (rsv : ReservedB) :
    lenField (wordBridge ident len d rsv) = len := by
  have hlt : len < 16 := of_decide_eq_true hlen
  rw [lenField, wordBridge_len, BitVec.toNat_ofNat, Nat.mod_eq_of_lt hlt]

/-! ### From a word to its fields and back -/

section Reassembly

variable (w : Word64)

theorem wordM_fields : wordM (opField w) (idField w) (reservedM w) = w := by
  refine BitVec.eq_of_getLsbD_eq fun i hi => ?_
  simp only [wordM, opField, idField, reservedM, BitVec.getLsbD_extractLsb', BitVec.getLsbD_append]
  grind

variable {w}

theorem wordJog_fields (h : opField w = 3) :
    wordJog (idField w) (speedField w) (flagField w) (reservedJ w) = w := by
  refine BitVec.eq_of_getLsbD_eq fun i hi => ?_
  simp only [wordJog, ← h, opField, idField, speedField, flagField, reservedJ, BitVec.getLsbD_extractLsb',
    BitVec.getLsbD_append]
  grind

theorem wordMoveAt_fields (h : opField w = 5) :
    wordMoveAt (idField w) (speedField w) (reservedMoveAt w) = w := by
  refine BitVec.eq_of_getLsbD_eq fun i hi => ?_
  simp only [wordMoveAt, ← h, opField, idField, speedField, reservedMoveAt, BitVec.getLsbD_extractLsb', BitVec.getLsbD_append]
  grind

theorem wordBridge_fields (h : opField w = 6) :
    wordBridge (identField w) (lenField w) (data0Field w) (reservedB w) = w := by
  refine BitVec.eq_of_getLsbD_eq fun i hi => ?_
  simp only [wordBridge, ← h, lenField, BitVec.ofNat_toNat, BitVec.setWidth_eq, opField, identField, data0Field, reservedB,
    BitVec.getLsbD_extractLsb', BitVec.getLsbD_append]
  grind

theorem wordReserved7_fields (h : opField w = 7) : wordReserved7 (w.extractLsb' 3 61) = w := by
  refine BitVec.eq_of_getLsbD_eq fun i hi => ?_
  simp only [wordReserved7, ← h, opField, BitVec.getLsbD_extractLsb', BitVec.getLsbD_append]
  grind

end Reassembly

/-- Every command word is the encoding of a well-formed instruction, the one it decodes to. -/
theorem encode_decodeCommand (w : Word64) :
    WellFormed (decodeCommand w) = true ∧ encode (decodeCommand w) = .command w := by
  have formatM (op : BitVec 3) (h : opField w = op) :
      PortAccess.command (wordM op (idField w) (reservedM w)) = .command w := by
    rw [← h, wordM_fields]
  rcases op_cases (opField w) with h | h | h | h | h | h | h | h
  · rw [decodeCommand_op0 h]; exact ⟨rfl, formatM 0 h⟩
  · rw [decodeCommand_op1 h]; exact ⟨rfl, formatM 1 h⟩
  · rw [decodeCommand_op2 h]; exact ⟨rfl, formatM 2 h⟩
  · rw [decodeCommand_op3 h]; exact ⟨rfl, congrArg _ (wordJog_fields h)⟩
  · rw [decodeCommand_op4 h]; exact ⟨rfl, formatM 4 h⟩
  · rw [decodeCommand_op5 h]; exact ⟨rfl, congrArg _ (wordMoveAt_fields h)⟩
  · rw [decodeCommand_op6 h]
    exact ⟨decide_eq_true (BitVec.isLt (w.extractLsb' 4 4)), congrArg _ (wordBridge_fields h)⟩
  · rw [decodeCommand_op7 h]; exact ⟨rfl, congrArg _ (wordReserved7_fields h)⟩

/-! ### `OP` tells the commands apart -/

/-- The `OP` of a command; a configuration access has none. -/
def commandOp : Instr → Option (BitVec 3)
  | .activate ..   => some 0
  | .deactivate .. => some 1
  | .loadparams .. => some 2
  | .jog ..        => some 3
  | .stop ..       => some 4
  | .moveat ..     => some 5
  | .bridge ..     => some 6
  | .reserved7 ..  => some 7
  | .cfgrd ..      => none
  | .cfgwr ..      => none

theorem commandOp_decodeCommand (w : Word64) : commandOp (decodeCommand w) = some (opField w) := by
  rcases op_cases (opField w) with h | h | h | h | h | h | h | h
  · rw [decodeCommand_op0 h, h]; rfl
  · rw [decodeCommand_op1 h, h]; rfl
  · rw [decodeCommand_op2 h, h]; rfl
  · rw [decodeCommand_op3 h, h]; rfl
  · rw [decodeCommand_op4 h, h]; rfl
  · rw [decodeCommand_op5 h, h]; rfl
  · rw [decodeCommand_op6 h, h]; rfl
  · rw [decodeCommand_op7 h, h]; rfl

/-- A word whose command is that of `op` has `op` in its `OP` field. -/
theorem opField_of_decode {w : Word64} {i : Instr} {op : BitVec 3} (hi : decode (.command w) = i)
    (hop : commandOp i = some op) : opField w = op := by
  have hw := commandOp_decodeCommand w
  rw [show decodeCommand w = i from hi, hop] at hw
  exact (Option.some.inj hw).symm

/-! ### The statements -/

/-- Settles O7: constructor by constructor, the assembled word has the constructor's `OP` and its fields are the operands. -/
theorem decodeOfEncode : Obligations.DecodeOfEncode := by
  intro i hwf
  cases i with
  | activate id rsv =>
    rw [encode, decode, decodeCommand_op0 (opField_wordM 0 id rsv), idField_wordM, reservedM_wordM]
  | deactivate id rsv =>
    rw [encode, decode, decodeCommand_op1 (opField_wordM 1 id rsv), idField_wordM, reservedM_wordM]
  | loadparams id rsv =>
    rw [encode, decode, decodeCommand_op2 (opField_wordM 2 id rsv), idField_wordM, reservedM_wordM]
  | jog id p flag rsv =>
    rw [encode, decode, decodeCommand_op3 (opField_wordJog id p flag rsv), idField_wordJog, speedField_wordJog,
      flagField_wordJog, reservedJ_wordJog]
  | stop id rsv =>
    rw [encode, decode, decodeCommand_op4 (opField_wordM 4 id rsv), idField_wordM, reservedM_wordM]
  | moveat id p rsv =>
    rw [encode, decode, decodeCommand_op5 (opField_wordMoveAt id p rsv), idField_wordMoveAt, speedField_wordMoveAt,
      reservedMoveAt_wordMoveAt]
  | bridge ident len d rsv =>
    rw [encode, decode, decodeCommand_op6 (opField_wordBridge ident len d rsv), identField_wordBridge,
      lenField_wordBridge hwf, data0Field_wordBridge, reservedB_wordBridge]
  | reserved7 rsv =>
    rw [encode, decode, decodeCommand_op7 (opField_wordReserved7 rsv), wordReserved7_rest]
  | cfgrd | cfgwr => rfl

/-- Settles O8: a command word is put together again from its fields, and a configuration access is kept as it is. -/
theorem encodeOfDecode : Obligations.EncodeOfDecode := by
  intro a
  cases a with
  | command w => exact encode_decodeCommand w
  | configRead | configWrite => exact ⟨rfl, rfl⟩

/-- Settles O9: the eight words, each decoded by evaluation. -/
theorem decodesTheSampleWords : Obligations.DecodesTheSampleWords := by
  refine ⟨?F1, ?F5, ?F8, ?J2, ?J4, ?J5, ?B1, ?W8⟩ <;> decide

/-- Settles O10: each value of `OP` gives its command, and each command gives its `OP` back. -/
theorem opFieldSelectsTheCommand : Obligations.OpFieldSelectsTheCommand := by
  refine fun w => ⟨⟨fun h => ⟨_, _, decodeCommand_op0 h⟩, ?_⟩, ⟨fun h => ⟨_, _, decodeCommand_op1 h⟩, ?_⟩,
    ⟨fun h => ⟨_, _, decodeCommand_op2 h⟩, ?_⟩, ⟨fun h => ⟨_, _, _, _, decodeCommand_op3 h⟩, ?_⟩,
    ⟨fun h => ⟨_, _, decodeCommand_op4 h⟩, ?_⟩, ⟨fun h => ⟨_, _, _, decodeCommand_op5 h⟩, ?_⟩,
    ⟨fun h => ⟨_, _, _, _, decodeCommand_op6 h⟩, ?_⟩, ⟨fun h => ⟨_, decodeCommand_op7 h⟩, ?_⟩⟩
  · rintro ⟨id, r, h⟩; exact opField_of_decode h rfl
  · rintro ⟨id, r, h⟩; exact opField_of_decode h rfl
  · rintro ⟨id, r, h⟩; exact opField_of_decode h rfl
  · rintro ⟨id, p, f, r, h⟩; exact opField_of_decode h rfl
  · rintro ⟨id, r, h⟩; exact opField_of_decode h rfl
  · rintro ⟨id, p, r, h⟩; exact opField_of_decode h rfl
  · rintro ⟨x, n, d, r, h⟩; exact opField_of_decode h rfl
  · rintro ⟨r, h⟩; exact opField_of_decode h rfl

end Sys2Proof
end

section
/-! PROOFS. The invariant of the machine: it holds after reset, every effect of a step keeps it, and under it a step always
answers (10_state.md section 3, 42_transmit.md section 1, 60_exceptions.md R115). -/

namespace Sys2Proof.Machine

/-! ### The frame in the frame buffer -/

/-- `FB[0..FLEN-1]` of a buffer that was filled with a frame is that frame. -/
theorem readRange_filled {m : Memory} {f : List Byte} {n : BitVec 5} (hlen : f.length ≤ fbSize) (hm : m = Memory.fill f)
    (hn : n = BitVec.ofNat 5 f.length) : m.readRange 0 n.toNat = .ok f := by
  have hnat : n.toNat = f.length := by
    rw [hn, BitVec.toNat_ofNat]
    exact Nat.mod_eq_of_lt (hlen.trans_lt (by decide))
  rw [hm, hnat, readRange_fill f hlen]

/-- A consistent command has a frame for the write step to read. -/
theorem State.CommandInv.readRange {s : State} (h : s.CommandInv) :
    ∃ f, IsFrame s.curKind f ∧ s.fb.readRange 0 s.flen.toNat = .ok f := by
  obtain ⟨-, f, hf, hfb, hflen, -⟩ := h
  exact ⟨f, hf, readRange_filled hf.length_le hfb hflen⟩

/-- The count a write leaves in `ACC` is the number of bytes it took: five bits hold it. -/
theorem txWrite_acc_toNat {f : List Byte} (hlen : f.length ≤ fbSize) (n : Nat) (s : State) :
    (s.txWrite f n).acc.toNat = min n f.length := by
  rw [txWrite_acc, BitVec.toNat_ofNat]
  exact Nat.mod_eq_of_lt ((min_le_right _ _).trans_lt (hlen.trans_lt (by decide)))

/-! ### The invariant by parts -/

/-- An idle block has no command to be consistent. -/
theorem State.Inv.of_idle {s : State} (hidle : s.phase = .idle) (hfb : s.fb.wf)
    (hrecord : s.resValid = false → s.res = .sent ∧ s.lastOp = 0) : s.Inv :=
  ⟨hfb, hrecord, fun hbusy => absurd hidle hbusy⟩

theorem reset_inv : State.reset.Inv :=
  .of_idle rfl reset_fb_wf fun _ => ⟨rfl, rfl⟩

/-- A reset leaves the block's part of the state as `State.reset` has it. -/
theorem resetBlock_inv (kept : Nat) (s : State) : (resetBlock kept s).Inv :=
  .of_idle rfl reset_fb_wf fun _ => ⟨rfl, rfl⟩

theorem storeCR_inv {s : State} (h : s.Inv) (n : Nat) (v : Word32) : (s.storeCR n v).Inv := by
  unfold State.storeCR
  split <;> exact h

/-- Accepting a command of kind `k` with a frame of that kind makes the command consistent. -/
theorem launch_inv {s : State} (h : s.Inv) {w : Word64} {k : Kind} {f : List Byte} (hf : IsFrame k f)
    (hw : kindOfOp (opField w) = some k) : (State.launch w k f s).Inv := by
  obtain ⟨-, hrecord, -⟩ := h
  refine ⟨fill_wf f, hrecord, fun _ => ⟨hw, f, hf, rfl, rfl, fun hphase => ?_⟩⟩
  simp at hphase

/-- Before the write step the wire does not count: the clear step changes the phase and `RXBUF`. -/
theorem clearStep_inv {s : State} (h : s.Inv) (hphase : s.phase = .clear) : (clearStep s).Inv := by
  obtain ⟨hfb, hrecord, hcommand⟩ := h
  obtain ⟨hkind, f, hf, hfill, hflen, -⟩ := hcommand (by simp [hphase])
  exact ⟨hfb, hrecord, fun _ => ⟨hkind, f, hf, hfill, hflen, fun hlate => by simp at hlate⟩⟩

/-- After the write step the wire ends with the `ACC` bytes that were taken. -/
theorem txWrite_inv {s : State} (h : s.Inv) (hphase : s.phase = .write) {f : List Byte} (n : Nat)
    (hread : s.fb.readRange 0 s.flen.toNat = .ok f) : ((s.txWrite f n).withPhase .drain).Inv := by
  obtain ⟨hfb, hrecord, hcommand⟩ := h
  obtain ⟨hkind, g, hg, hfill, hflen, -⟩ := hcommand (by simp [hphase])
  obtain rfl : g = f := Except.ok.inj ((readRange_filled hg.length_le hfill hflen).symm.trans hread)
  refine ⟨hfb, hrecord, fun _ => ⟨hkind, g, hg, hfill, hflen, fun _ => ?_⟩⟩
  rw [withPhase_acc, txWrite_acc_toNat hg.length_le, withPhase_wire, txWrite_wire]
  exact ⟨min_le_right _ _, s.wire, by rw [List.take_eq_take_min]⟩

/-- Between DRAIN and SETTLE nothing of the command changes but the timer. -/
theorem settling_inv_of_draining {s : State} (h : s.Inv) (hphase : s.phase = .drain) (v : Word32) :
    ((s.withTimer v).withPhase .settle).Inv := by
  obtain ⟨hfb, hrecord, hcommand⟩ := h
  obtain ⟨hkind, f, hf, hfill, hflen, hwire⟩ := hcommand (by simp [hphase])
  exact ⟨hfb, hrecord, fun _ => ⟨hkind, f, hf, hfill, hflen, fun _ => hwire (.inl hphase)⟩⟩

/-! ### Every effect of a step keeps the invariant -/

theorem PortEffect.inv {s t : State} (he : PortEffect s t) (h : s.Inv) : t.Inv := by
  cases he with
  | nothing => exact h
  | ended w r hidle => exact .of_idle hidle h.1 fun hv => by simp at hv
  | launched w k f d hidle hf hw => exact launch_inv (s := s.afterDraws d) h hf hw
  | answered v => exact h
  | configured n v hidle => exact storeCR_inv h n v

theorem EncoderEffect.inv {count : Nat} {s t : State} (he : EncoderEffect count s t) (h : s.Inv) : t.Inv := by
  cases he with
  | idle | waiting => exact h
  | clear hphase => exact clearStep_inv h hphase
  | write f hphase hread => exact txWrite_inv h hphase count hread
  | drained hphase hd => exact settling_inv_of_draining h hphase _
  | tick => exact h
  | done => exact .of_idle rfl h.1 fun hv => by simp at hv

/-- The list of moves, the draw counter and the transport's buffers are not the invariant's. -/
theorem StepEffect.inv {s t : State} (he : StepEffect s t) (h : s.Inv) : t.Inv := by
  cases he with
  | port a rest _ hi hexec he => exact he.inv h
  | encoder count rest _ hi he => exact he.inv h
  | link | sends => exact h
  | reset kept rest => exact resetBlock_inv kept _
  | free _ hi hp he => exact he.inv h
  | freeWrite _ hi hp he => exact he.inv h

/-! ### A step answers where the encoder has a frame to write -/

/-- A listed move of an agent is made on the moves that are left. -/
theorem step_of_agent {s : State} {m : AgentMove} {rest : List Input} (h : s.inputs = .agent m :: rest) :
    step s = agentMove m (s.withInputs rest) := by
  simp only [step, nextInput, h]

theorem writeStep_ok {s : State} {f : List Byte} (hread : s.fb.readRange 0 s.flen.toNat = .ok f) (count : Nat) :
    writeStep count s = .next ((s.txWrite f count).withPhase .drain) := by
  rw [writeStep, hread]

theorem writeStep_error {s : State} {e : Fault} (hread : s.fb.readRange 0 s.flen.toNat = .error e) (count : Nat) :
    writeStep count s = .fault e := by
  rw [writeStep, hread]

theorem step_answers {s : State} (h : s.phase = .write → ∃ f, s.fb.readRange 0 s.flen.toNat = .ok f) :
    ∃ t, step s = .next t := by
  cases hi : s.inputs with
  | nil =>
    rw [step_of_nothing hi, freeRun]
    by_cases hw : s.phase = .write
    · obtain ⟨f, hf⟩ := h hw
      rw [if_pos hw]
      exact ⟨_, writeStep_ok (s := s.afterDraws 1) hf _⟩
    · rw [if_neg hw]
      exact encoderStep_answers 0 s h
  | cons i rest =>
    cases i with
    | port a =>
      obtain ⟨t, ht, -⟩ := exec_effect (decode a) (s.withInputs rest)
      exact ⟨t, (step_of_port hi).trans ht⟩
    | agent m =>
      rw [step_of_agent hi]
      cases m with
      | encoder n => exact encoderStep_answers n (s.withInputs rest) h
      | linkByte | transportSends | reset => exact ⟨_, rfl⟩

/-! ### The statements -/

/-- Settles O57: one case per effect a step can have. -/
theorem everyStepKeepsTheInvariant : Obligations.EveryStepKeepsTheInvariant :=
  fun _ _ hinv hstep => (step_next hstep).inv hinv

/-- Settles O58: in WRITE the invariant has the frame that the write step reads. -/
theorem theBlockNeverStops : Obligations.TheBlockNeverStops := by
  intro s hinv
  obtain ⟨-, -, hcommand⟩ := hinv
  refine step_answers fun hphase => ?_
  obtain ⟨f, -, hread⟩ := (hcommand (by simp [hphase])).readRange
  exact ⟨f, hread⟩

/-- Settles O56: the reset block is idle, its buffer empty and its record clear. -/
theorem resetMeetsTheInvariant : Obligations.ResetMeetsTheInvariant := reset_inv

/-- Settles O1: each register reads the value reset gives it, and the parameters keep the order of R21. -/
theorem resetLeavesTheGivenValues : Obligations.ResetLeavesTheGivenValues :=
  ⟨rfl, rfl, rfl, rfl, rfl, rfl, rfl, rfl, times_legal⟩

end Sys2Proof.Machine
end

section
/-! PROOFS. What every step without a reset keeps to: the order of the phases (10_state.md R13), the wire (20_memory.md R32),
the record of the last completion, the configuration of a busy block, the settle time (42_transmit.md R95), and what the reset
input leaves (70_reset_and_hazards.md R130, R131). -/

namespace Sys2Proof.Machine

/-! ### One step without a reset, seen from the moves that are left -/

/-- The state a move starts from: the move taken off the list, and `d` free values drawn. -/
def State.started (d : Nat) (s : State) : State := (s.withInputs s.inputs.tail).afterDraws d

/-- What a move other than the reset input does. -/
inductive MoveEffect (s : State) : State → Prop where
  | port (t : State) (he : PortEffect s t) : MoveEffect s t
  | encoder (count : Nat) (t : State) (he : EncoderEffect count s t) : MoveEffect s t
  | link (b : Byte) : MoveEffect s (s.linkReceive b)
  | sends : MoveEffect s s.transportSend

theorem started_of_cons {s : State} {i : Input} {rest : List Input} (hi : s.inputs = i :: rest) :
    s.started 0 = s.withInputs rest := by
  rw [State.started, hi]
  rfl

theorem started_of_nil {s : State} (hi : s.inputs = []) (d : Nat) : s.started d = s.afterDraws d := by
  rw [State.started, hi, List.tail_nil, ← hi]
  rfl

/-- A step that is no reset is one move, made after taking it off the list and perhaps drawing a free value. -/
theorem StepEffect.moveEffect {s t : State} (h : StepEffect s t) (hr : s.notReset) :
    ∃ d, MoveEffect (s.started d) t := by
  cases h with
  | port a rest _ hi hexec he => exact ⟨0, started_of_cons hi ▸ .port t he⟩
  | encoder count rest _ hi he => exact ⟨0, started_of_cons hi ▸ .encoder count t he⟩
  | link b rest hi => exact ⟨0, started_of_cons hi ▸ .link b⟩
  | sends rest hi => exact ⟨0, started_of_cons hi ▸ .sends⟩
  | reset kept rest hi => exact absurd hi (hr kept rest)
  | free _ hi hp he => exact ⟨0, started_of_nil hi 0 ▸ .encoder 0 t he⟩
  | freeWrite _ hi hp he => exact ⟨1, started_of_nil hi 1 ▸ .encoder _ t he⟩

theorem step_moveEffect {s t : State} (hr : s.notReset) (h : step s = .next t) : ∃ d, MoveEffect (s.started d) t :=
  (step_next h).moveEffect hr

/-! ### What a configuration write leaves alone -/

@[simp] theorem storeCR_phase (n : Nat) (v : Word32) (s : State) : (s.storeCR n v).phase = s.phase := by
  unfold State.storeCR
  split <;> rfl

@[simp] theorem storeCR_wire (n : Nat) (v : Word32) (s : State) : (s.storeCR n v).wire = s.wire := by
  unfold State.storeCR
  split <;> rfl

@[simp] theorem storeCR_doneLog (n : Nat) (v : Word32) (s : State) : (s.storeCR n v).doneLog = s.doneLog := by
  unfold State.storeCR
  split <;> rfl

/-! ### The order of the phases -/

/-- `q` is `p`, or the phase that follows it (R13). -/
def Phase.StaysOrFollows (p q : Phase) : Prop :=
  q = p ∨ (p = .idle ∧ q = .clear) ∨ (p = .clear ∧ q = .write) ∨ (p = .write ∧ q = .drain) ∨
    (p = .drain ∧ q = .settle) ∨ (p = .settle ∧ q = .idle)

theorem PortEffect.phase {s t : State} (h : PortEffect s t) : s.phase.StaysOrFollows t.phase := by
  cases h with
  | nothing | ended | answered => exact .inl rfl
  | launched w k f d hidle => exact .inr (.inl ⟨hidle, rfl⟩)
  | configured n v => exact .inl (storeCR_phase n v s)

theorem EncoderEffect.phase {count : Nat} {s t : State} (h : EncoderEffect count s t) :
    s.phase.StaysOrFollows t.phase := by
  cases h with
  | idle | waiting | tick => exact .inl rfl
  | clear hp => exact .inr (.inr (.inl ⟨hp, rfl⟩))
  | write f hp => exact .inr (.inr (.inr (.inl ⟨hp, rfl⟩)))
  | drained hp => exact .inr (.inr (.inr (.inr (.inl ⟨hp, rfl⟩))))
  | done hp => exact .inr (.inr (.inr (.inr (.inr ⟨hp, rfl⟩))))

theorem MoveEffect.phase {s t : State} (h : MoveEffect s t) : s.phase.StaysOrFollows t.phase := by
  cases h with
  | port _ he => exact he.phase
  | encoder _ _ he => exact he.phase
  | link | sends => exact .inl rfl

/-! ### The wire -/

theorem PortEffect.wire {s t : State} (h : PortEffect s t) : t.wire = s.wire := by
  cases h with
  | configured n v => exact storeCR_wire n v s
  | nothing | ended | launched | answered => rfl

/-- The wire is as before, or the write step has added to it. -/
theorem MoveEffect.wire {s t : State} (h : MoveEffect s t) :
    t.wire = s.wire ∨ (s.phase = .write ∧ t.phase = .drain ∧ ∃ bs, t.wire = s.wire ++ bs) := by
  cases h with
  | port _ he => exact .inl he.wire
  | link | sends => exact .inl rfl
  | encoder _ _ he =>
    cases he with
    | write f hp => exact .inr ⟨hp, rfl, _, rfl⟩
    | idle | clear | waiting | drained | tick | done => exact .inl rfl

/-! ### The record of the last completion -/

/-- The record and the indications stay, or a command has completed and left the block idle. -/
def State.RecordStaysOrCompletes (s t : State) : Prop :=
  (s.SameRecord t ∧ t.doneLog = s.doneLog) ∨ (t.phase = .idle ∧ ∃ r, State.Completes r s t)

theorem PortEffect.record {s t : State} (h : PortEffect s t) : s.RecordStaysOrCompletes t := by
  cases h with
  | ended w r hidle => exact .inr ⟨hidle, r, rfl, rfl, rfl, rfl⟩
  | configured n v => exact .inl ⟨storeCR_sameRecord n v s, storeCR_doneLog n v s⟩
  | nothing | launched | answered => exact .inl ⟨⟨rfl, rfl, rfl⟩, rfl⟩

theorem MoveEffect.record {s t : State} (h : MoveEffect s t) : s.RecordStaysOrCompletes t := by
  cases h with
  | port _ he => exact he.record
  | link | sends => exact .inl ⟨⟨rfl, rfl, rfl⟩, rfl⟩
  | encoder _ _ he =>
    cases he with
    | done => exact .inr ⟨rfl, s.writeResult, rfl, rfl, rfl, rfl⟩
    | idle | clear | write | waiting | drained | tick => exact .inl ⟨⟨rfl, rfl, rfl⟩, rfl⟩

/-! ### The configuration registers -/

/-- The five registers that can be written hold the same values in both states. -/
structure State.SameConfiguration (s t : State) : Prop where
  settleAct : t.settleAct = s.settleAct
  settleDeact : t.settleDeact = s.settleDeact
  settleLoad : t.settleLoad = s.settleLoad
  settleJog : t.settleJog = s.settleJog
  idset : t.idset = s.idset

theorem MoveEffect.configuration_of_busy {s t : State} (h : MoveEffect s t) (hbusy : s.phase ≠ .idle) :
    s.SameConfiguration t := by
  cases h with
  | link | sends => exact ⟨rfl, rfl, rfl, rfl, rfl⟩
  | encoder _ _ he => cases he <;> exact ⟨rfl, rfl, rfl, rfl, rfl⟩
  | port _ he =>
    cases he with
    | configured n v hidle => exact absurd hidle hbusy
    | nothing | ended | launched | answered => exact ⟨rfl, rfl, rfl, rfl, rfl⟩

/-! ### The settle phase -/

/-- From SETTLE only the completion leads to IDLE. -/
theorem MoveEffect.eq_complete {s t : State} (h : MoveEffect s t) (hsettle : s.phase = .settle) (hidle : t.phase = .idle) :
    t = (s.complete s.writeResult).withPhase .idle := by
  cases h with
  | link | sends => cases hsettle.symm.trans hidle
  | encoder _ _ he =>
    cases he with
    | done => rfl
    | tick => cases hsettle.symm.trans hidle
    | idle hp | clear hp | write _ hp | waiting hp | drained hp => cases hsettle.symm.trans hp
  | port _ he =>
    cases he with
    | nothing | answered => cases hsettle.symm.trans hidle
    | ended _ _ hp | launched _ _ _ _ hp | configured _ _ hp => cases hsettle.symm.trans hp

/-- The result of a command whose frame is in the buffer: SENT means that `ACC` is the frame's length. -/
theorem writeResult_of_acc_le {s : State} {n : Nat} (hn : n ≤ fbSize) (hflen : s.flen = BitVec.ofNat 5 n)
    (hacc : s.acc.toNat ≤ n) :
    (s.writeResult = .sent ∧ s.acc.toNat = n) ∨ (s.writeResult = .shortWrite ∧ s.acc.toNat < n) := by
  have hnat : s.flen.toNat = n := by
    rw [hflen, BitVec.toNat_ofNat]
    exact Nat.mod_eq_of_lt (hn.trans_lt (by decide))
  by_cases heq : s.acc = s.flen
  · exact .inl ⟨if_pos heq, by rw [heq, hnat]⟩
  · refine .inr ⟨if_neg heq, lt_of_le_of_ne hacc fun hlen => heq (BitVec.eq_of_toNat_eq ?_)⟩
    rw [hlen, hnat]

/-- What a step in SETTLE leaves as it is, above zero ticks, whoever moves. -/
structure State.KeepsSettling (s t : State) : Prop where
  phase : t.phase = .settle
  wire : t.wire = s.wire
  doneLog : t.doneLog = s.doneLog
  cur : t.cur = s.cur
  inputs : t.inputs = s.inputs
  timer : s.tmr.toNat ≤ t.tmr.toNat + 1

theorem MoveEffect.keepsSettling {s t : State} (h : MoveEffect s t) (hsettle : s.phase = .settle) (htmr : s.tmr ≠ 0) :
    s.KeepsSettling t := by
  cases h with
  | link | sends => exact ⟨hsettle, rfl, rfl, rfl, rfl, Nat.le_succ _⟩
  | port _ he =>
    cases he with
    | nothing | answered => exact ⟨hsettle, rfl, rfl, rfl, rfl, Nat.le_succ _⟩
    | ended _ _ hp | launched _ _ _ _ hp | configured _ _ hp => cases hsettle.symm.trans hp
  | encoder _ _ he =>
    cases he with
    | tick => exact ⟨hsettle, rfl, rfl, rfl, rfl, by rw [withTimer_tmr]; bv_omega⟩
    | done _ hzero => exact absurd hzero htmr
    | idle hp | clear hp | write _ hp | waiting hp | drained hp => cases hsettle.symm.trans hp

/-- One step in SETTLE above zero ticks and without a reset. -/
theorem step_keepsSettling {s : State} (hsettle : s.phase = .settle) (htmr : s.tmr ≠ 0) (hr : s.notReset) :
    ∃ t, step s = .next t ∧ (s.withInputs s.inputs.tail).KeepsSettling t := by
  obtain ⟨t, ht⟩ := step_answers (s := s) fun hw => nomatch hsettle.symm.trans hw
  obtain ⟨d, he⟩ := step_moveEffect hr ht
  obtain ⟨hphase, hwire, hdone, hcur, hinputs, htimer⟩ := he.keepsSettling hsettle htmr
  exact ⟨t, ht, hphase, hwire, hdone, hcur, hinputs, htimer⟩

/-! ### The reset input -/

/-- The frame in flight of a busy block is what the frame buffer was filled with. -/
theorem frameInFlight_of_busy {s : State} {f : List Byte} (hbusy : s.phase ≠ .idle) (hlen : f.length ≤ fbSize)
    (hfb : s.fb = Memory.fill f) (hflen : s.flen = BitVec.ofNat 5 f.length) : frameInFlight s = f := by
  rw [frameInFlight, if_neg hbusy, readRange_filled hlen hfb hflen]

theorem frameInFlight_of_idle {s : State} (hidle : s.phase = .idle) : frameInFlight s = [] := if_pos hidle

theorem bytesOfReset_of_idle {s : State} (hidle : s.phase = .idle) (kept : Nat) : bytesOfReset kept s = [] := by
  rw [bytesOfReset, frameInFlight_of_idle hidle, List.take_nil, ite_self]

/-- The control registers after the reset input are those of R29. -/
theorem resetBlock_readCR (kept : Nat) (s : State) (n : Nat) : (resetBlock kept s).readCR n = State.reset.readCR n := by
  unfold State.readCR
  split <;> rfl

/-! ### The statements -/

/-- Settles O49: the phase of the state a step starts from is the state's own. -/
theorem phasesFollowInOrder : Obligations.PhasesFollowInOrder := by
  intro s t hr hstep
  obtain ⟨d, he⟩ := step_moveEffect hr hstep
  exact he.phase

/-- Settles O50: of all moves only the write step changes the wire, by appending. -/
theorem wireGrowsOnlyInTheWriteStep : Obligations.WireGrowsOnlyInTheWriteStep := by
  intro s t hr hstep
  obtain ⟨d, he⟩ := step_moveEffect hr hstep
  rcases he.wire with hsame | ⟨hwrite, hdrain, bs, happend⟩
  · exact ⟨⟨[], hsame.trans (List.append_nil _).symm⟩, fun hne => absurd hsame hne⟩
  · exact ⟨⟨bs, happend⟩, fun _ => ⟨hwrite, hdrain⟩⟩

/-- Settles O51: a move leaves the record, or it is a completion, which fills it. -/
theorem statusChangesOnlyAtCompletion : Obligations.StatusChangesOnlyAtCompletion := by
  intro s t hr hstep
  obtain ⟨d, he⟩ := step_moveEffect hr hstep
  rcases he.record with ⟨⟨hres, hvalid, hop⟩, hdone⟩ | ⟨hidle, r, hdone, hres, hvalid, hop⟩
  · exact .inl ⟨hres, hvalid, hop, hdone⟩
  · exact .inr ⟨hidle, hvalid, hop, hres ▸ hdone⟩

/-- Settles O52: a busy block drops configuration writes, and no other move touches the registers. -/
theorem configurationIsStableWhileBusy : Obligations.ConfigurationIsStableWhileBusy := by
  intro s t hr hbusy hstep
  obtain ⟨d, he⟩ := step_moveEffect hr hstep
  obtain ⟨hact, hdeact, hload, hjog, hidset⟩ := he.configuration_of_busy hbusy
  exact ⟨hact, hdeact, hload, hjog, hidset⟩

/-- Settles O54: the completion reports by `ACC` and `FLEN`, and the invariant says what these are of the frame. -/
theorem sentMeansTheWholeFrameIsOnTheWire : Obligations.SentMeansTheWholeFrameIsOnTheWire := by
  intro s t hinv hr hsettle hstep hidle
  obtain ⟨d, he⟩ := step_moveEffect hr hstep
  have ht : t = ((s.started d).complete s.writeResult).withPhase .idle := he.eq_complete hsettle hidle
  obtain ⟨-, -, hcommand⟩ := hinv
  obtain ⟨-, f, hf, hfb, hflen, hwire⟩ := hcommand (by simp [hsettle])
  obtain ⟨hacc, before, hends⟩ := hwire (.inr hsettle)
  refine ⟨before, f, hf, hfb, hflen, ?_⟩
  subst ht
  rcases writeResult_of_acc_le hf.length_le hflen hacc with ⟨hsent, hall⟩ | ⟨hshort, hfewer⟩
  · exact .inl ⟨hsent, hall, by rw [← List.take_length (l := f), ← hall]; exact hends⟩
  · exact .inr ⟨hshort, hfewer, hends⟩

/-- Settles O46, by induction on the number of steps: each takes at most one tick off the timer. -/
theorem settleTimeIsALowerBound : Obligations.SettleTimeIsALowerBound := by
  intro k
  induction k with
  | zero => exact fun s hsettle _ _ => ⟨s, rfl, hsettle, rfl, rfl, rfl⟩
  | succ k ih =>
    intro s hsettle hk hresets
    have htmr : s.tmr ≠ 0 := fun hzero => by simp [hzero] at hk
    have hr : s.notReset := fun kept rest hi => hresets kept (by simp [hi])
    obtain ⟨t, ht, hkeeps⟩ := step_keepsSettling hsettle htmr hr
    have hticks : k ≤ t.tmr.toNat := Nat.le_of_succ_le_succ (hk.trans hkeeps.timer)
    have hlater (kept : Nat) : Input.agent (.reset kept) ∉ t.inputs.take k := fun hmem => by
      rw [hkeeps.inputs] at hmem
      cases hi : s.inputs with
      | nil => simp [hi] at hmem
      | cons i rest =>
        rw [hi] at hmem
        exact hresets kept (hi ▸ List.mem_cons_of_mem i hmem)
    obtain ⟨u, hu, hphase, hwire, hdone, hcur⟩ := ih t hkeeps.phase hticks hlater
    exact ⟨u, (run_succ ht).trans hu, hphase, hwire.trans hkeeps.wire, hdone.trans hkeeps.doneLog, hcur.trans hkeeps.cur⟩

/-- Settles O55: the reset values are those of `State.reset`; the frame in flight is read from the frame buffer. -/
theorem resetAbandonsTheCommand : Obligations.ResetAbandonsTheCommand := by
  intro s kept rest hi
  obtain ⟨-, h0, h1, h2, h3, h4, h5, -, -⟩ := resetLeavesTheGivenValues
  refine ⟨resetBlock kept (s.withInputs rest), step_of_agent hi, rfl, (resetBlock_readCR ..).trans h0,
    (resetBlock_readCR ..).trans h1, (resetBlock_readCR ..).trans h2, (resetBlock_readCR ..).trans h3,
    (resetBlock_readCR ..).trans h4, (resetBlock_readCR ..).trans h5, rfl, rfl, rfl,
    fun hidle => ⟨?_, ?_⟩, fun f hbusy hlen hfb hflen => ?_⟩
  · rw [resetBlock, frameInFlight_of_idle (by exact hidle), List.take_nil]
  · rw [resetBlock, bytesOfReset_of_idle (by exact hidle), List.append_nil, withInputs_txpend]
  · have hflight : frameInFlight (s.withInputs rest) = f := frameInFlight_of_busy hbusy hlen hfb hflen
    simp only [resetBlock, bytesOfReset, hflight, withInputs_phase, withInputs_txpend, and_self]

end Sys2Proof.Machine
end

section
/-! PROOFS. The speed code by sign and by size of the speed (41_jog.md R79, R80, R82) and the bridge's clamp (43_bridge.md
R109). -/

namespace Sys2Proof.Machine

/-! ### Patterns by class and sign -/

/-- A finite value is the significand with the pattern's sign, scaled by a power of two (R76). -/
theorem val_eq_scaled {p : Word32} {v : ℚ} (hv : val p = some v) :
    ∃ z : ℤ, v = signFactor p * (significand p : ℚ) * (2 : ℚ) ^ z := by
  unfold val at hv
  unfold significand
  split at hv
  · cases hv
  · split at hv
    next hsub =>
      rw [if_pos hsub]
      exact ⟨_, (Option.some.inj hv).symm⟩
    next hnormal =>
      rw [if_neg hnormal]
      exact ⟨_, (Option.some.inj hv).symm⟩

section FinitePattern

variable {p : Word32} {v : ℚ} (hv : val p = some v)
include hv

theorem val_eq_zero_iff : v = 0 ↔ significand p = 0 := by
  obtain ⟨z, rfl⟩ := val_eq_scaled hv
  have hsign : signFactor p ≠ 0 := by
    unfold signFactor
    split <;> norm_num
  simp [hsign, zpow_ne_zero]

theorem val_nonneg_of_plus (hplus : signBit p = false) : 0 ≤ v := by
  obtain ⟨z, rfl⟩ := val_eq_scaled hv
  rw [signFactor, hplus, if_neg Bool.false_ne_true, one_mul]
  positivity

theorem val_nonpos_of_minus (hminus : signBit p = true) : v ≤ 0 := by
  obtain ⟨z, rfl⟩ := val_eq_scaled hv
  rw [signFactor, hminus, if_pos rfl, neg_one_mul, neg_mul]
  have : (0 : ℚ) ≤ (significand p : ℚ) * (2 : ℚ) ^ z := by positivity
  linarith

/-- R80: the block's test for a zero speed is equality with 0.0. -/
theorem isZero_finite_iff : (decodeSpeed p).isZero = true ↔ v = 0 := by
  obtain ⟨num, den, hp, hd, rfl⟩ := decodeSpeed_finite hv
  have hden : (den : ℚ) ≠ 0 := by exact_mod_cast hd.ne'
  simp [hp, Speed.isZero, hden]

theorem moveFlag_finite : (decodeSpeed p).moveFlag = if v = 0 then 0 else 1 := by
  simp only [Speed.moveFlag, isZero_finite_iff hv]

end FinitePattern

section Special

variable {p : Word32} (hnone : val p = none)
include hnone

/-- R80: an infinity and a NaN are not equal to 0.0 and have no specified code. -/
theorem isZero_of_val_none : (decodeSpeed p).isZero = false := by
  rcases decodeSpeed_of_val_none hnone with ⟨b, h⟩ | h <;> rw [h] <;> rfl

theorem speedCode_of_val_none : speedCode (decodeSpeed p) = none := by
  rcases decodeSpeed_of_val_none hnone with ⟨b, h⟩ | h <;> rw [h] <;> rfl

theorem moveFlag_of_val_none : (decodeSpeed p).moveFlag = 1 := by
  rw [Speed.moveFlag, isZero_of_val_none hnone, if_neg Bool.false_ne_true]

end Special

/-! ### The integer procedure -/

/-- `R` of a fraction in integers: the product with 3283 divided, half of the divisor being added first (R79). -/
theorem scaledMagnitude_eq_div (num : ℤ) (den : ℕ) :
    scaledMagnitude num den = (2 * (num.natAbs * 3283) + den) / (2 * den) := by
  have habs : (num * scale).natAbs = num.natAbs * 3283 := Int.natAbs_mul num scale
  rw [scaledMagnitude, roundAway, habs]
  split
  · rw [Int.natAbs_neg, Int.natAbs_natCast]
  · rw [Int.natAbs_natCast]

theorem signedSignificand_natAbs (p : Word32) : (signedSignificand p).natAbs = significand p := by
  unfold signedSignificand
  split
  · rw [Int.natAbs_neg, Int.natAbs_natCast]
  · rw [Int.natAbs_natCast]

/-- Halving the divisor of the rounding. -/
theorem double_add_div_double (a k : ℕ) : (2 * a + 2 ^ (k + 1)) / (2 * 2 ^ (k + 1)) = (a + 2 ^ k) / 2 ^ (k + 1) := by
  rw [show 2 * a + 2 ^ (k + 1) = 2 * (a + 2 ^ k) by ring]
  exact Nat.mul_div_mul_left _ _ two_pos

/-- For an integer product nothing is rounded. -/
theorem double_add_one_div_two (a : ℕ) : (2 * a + 1) / (2 * 1) = a := by omega

/-- R79: in each of its three cases the integer procedure is `R` of the fraction the pattern decodes to. -/
theorem integerProcedure_eq {p : Word32} {num : ℤ} {den : ℕ} (h : decodeSpeed p = .finite num den) :
    integerProcedure p = scaledMagnitude num den := by
  rw [scaledMagnitude_eq_div]
  unfold decodeSpeed at h
  unfold integerProcedure
  split at h
  next => split at h <;> cases h
  next =>
    split at h
    next hsub =>
      injection h with hnum hden
      rw [if_pos hsub, ← hnum, ← hden, signedSignificand_natAbs]
      exact (double_add_div_double _ 148).symm
    next hnormal =>
      rw [if_neg hnormal]
      split at h
      next hsmall =>
        injection h with hnum hden
        obtain ⟨k, hk⟩ : ∃ k, 149 - exponentField p = k := ⟨_, rfl⟩
        have hk' : 150 - exponentField p = k + 1 := by omega
        rw [if_neg (by omega), ← hnum, ← hden, signedSignificand_natAbs, hk, hk', double_add_div_double]
      next hlarge =>
        injection h with hnum hden
        rw [if_pos (by omega), ← hnum, ← hden, Int.natAbs_mul, signedSignificand_natAbs, Int.natAbs_pow,
          double_add_one_div_two]
        exact Nat.mul_right_comm _ _ _

theorem integerProcedure_eq_rnd {p : Word32} {v : ℚ} (hv : val p = some v) :
    (integerProcedure p : ℤ) = rnd (|v| * 3283) := by
  obtain ⟨num, den, hp, hd, rfl⟩ := decodeSpeed_finite hv
  rw [integerProcedure_eq hp, scaledMagnitude_eq num den hd]

/-- The formula of R77 in terms of `R` and the sign of the speed. -/
theorem codeFormula_of_abs (v : ℚ) : codeFormula v =
    if v = 0 then 0x7FFF else if v < 0 then 0x7FFF - rnd (|v| * 3283) else 0x8000 + rnd (|v| * 3283) := by
  rcases lt_trichotomy v 0 with h | h | h
  · rw [if_neg h.ne, if_pos h, codeFormula_of_neg h, abs_of_neg h, neg_mul, rnd_neg, sub_neg_eq_add]
  · rw [if_pos h, h, codeFormula, if_pos rfl]
  · rw [if_neg h.ne', if_neg h.not_gt, codeFormula_of_pos h, abs_of_pos h]

/-! ### Flipping the sign bit -/

section FlippedSign

variable (p : Word32)

theorem exponentField_flip : exponentField (p ^^^ 0x80000000) = exponentField p := by
  have hmask : (0x80000000 : Word32).extractLsb' 23 8 = 0#8 := rfl
  rw [exponentField, BitVec.extractLsb'_xor, hmask, BitVec.xor_zero, exponentField]

theorem fractionField_flip : fractionField (p ^^^ 0x80000000) = fractionField p := by
  have hmask : (0x80000000 : Word32).extractLsb' 0 23 = 0#23 := rfl
  rw [fractionField, BitVec.extractLsb'_xor, hmask, BitVec.xor_zero, fractionField]

theorem signFactor_flip : signFactor (p ^^^ 0x80000000) = -signFactor p := by
  have hmask : (0x80000000 : Word32).getLsbD 31 = true := rfl
  rw [signFactor, signFactor, signBit, BitVec.getLsbD_xor, hmask, signBit]
  cases p.getLsbD 31 <;> simp

theorem val_flip {x : ℚ} (hx : val p = some x) : val (p ^^^ 0x80000000) = some (-x) := by
  unfold val at hx ⊢
  rw [exponentField_flip, fractionField_flip, signFactor_flip]
  split at hx
  · cases hx
  · rw [if_neg ‹_›]
    split at hx
    · rw [if_pos ‹_›, ← Option.some.inj hx, neg_mul, neg_mul]
    · rw [if_neg ‹_›, ← Option.some.inj hx, neg_mul, neg_mul]

end FlippedSign

/-! ### The order of the codes -/

theorem codeFormula_mono {v v' : ℚ} (h : v ≤ v') : codeFormula v ≤ codeFormula v' := by
  have hrnd : rnd (v * 3283) ≤ rnd (v' * 3283) := rnd_mono (by linarith)
  rcases lt_trichotomy v 0 with hneg | hzero | hpos
  · have hlow : rnd (v * 3283) ≤ 0 := rnd_nonpos (by linarith)
    rw [codeFormula_of_neg hneg]
    rcases lt_trichotomy v' 0 with hneg' | hzero' | hpos'
    · rw [codeFormula_of_neg hneg']; omega
    · rw [codeFormula, if_pos hzero']; omega
    · have hhigh : 0 ≤ rnd (v' * 3283) := rnd_nonneg (by linarith)
      rw [codeFormula_of_pos hpos']; omega
  · rcases h.eq_or_lt with heq | hlt
    · rw [heq]
    · have hhigh : 0 ≤ rnd (v' * 3283) := rnd_nonneg (by linarith)
      rw [codeFormula, if_pos hzero, codeFormula_of_pos (hzero ▸ hlt)]; omega
  · rw [codeFormula_of_pos hpos, codeFormula_of_pos (hpos.trans_le h)]; omega

/-- On one side of zero, numbers a unit apart do not round to the same integer. -/
theorem rnd_lt_rnd_of_nonneg {q r : ℚ} (hq : 0 ≤ q) (h : q + 1 ≤ r) : rnd q < rnd r := by
  rw [rnd, rnd, if_pos hq, if_pos (by linarith)]
  calc ⌊q + 1 / 2⌋ < ⌊q + 1 / 2⌋ + 1 := Int.lt_succ _
    _ = ⌊q + 1 / 2 + 1⌋ := (Int.floor_add_one _).symm
    _ ≤ ⌊r + 1 / 2⌋ := Int.floor_le_floor (by linarith)

theorem rnd_lt_rnd_of_nonpos {q r : ℚ} (hr : r ≤ 0) (h : q + 1 ≤ r) : rnd q < rnd r := by
  have hflip : rnd (-r) < rnd (-q) := rnd_lt_rnd_of_nonneg (by linarith) (by linarith)
  rw [rnd_neg, rnd_neg] at hflip
  omega

/-- R82 (d): one code unit is 1/3283 of full speed. -/
theorem codeFormula_strict {v v' : ℚ} (hside : 0 < v ∨ v' < 0) (hfar : 1 / 3283 ≤ v' - v) :
    codeFormula v < codeFormula v' := by
  rcases hside with hpos | hneg
  · rw [codeFormula_of_pos hpos, codeFormula_of_pos (by linarith)]
    exact Int.add_lt_add_left (rnd_lt_rnd_of_nonneg (by linarith) (by linarith)) _
  · rw [codeFormula_of_neg hneg, codeFormula_of_neg (by linarith)]
    exact Int.add_lt_add_left (rnd_lt_rnd_of_nonpos (by linarith) (by linarith)) _

/-! ### Speeds inside the contract -/

theorem rnd_scale : rnd 3283 = 3283 := by
  rw [rnd, if_pos (by norm_num), Int.floor_eq_iff]
  constructor <;> norm_num

theorem rnd_abs_le_of_abs_le_one {v : ℚ} (h : |v| ≤ 1) : rnd (|v| * 3283) ≤ 3283 :=
  rnd_scale ▸ rnd_mono (by linarith)

/-! ### The bridge's clamp -/

theorem toInt_eq_lowest_iff (d : Byte) : d.toInt = -128 ↔ d = 0x80 :=
  ⟨fun h => BitVec.eq_of_toInt_eq h, fun h => h ▸ rfl⟩

/-- The signed bytes that the clamp does not change. -/
theorem neg_one_le_quotient_iff (d : Byte) : -1 ≤ (d.toInt : ℚ) / 127 ↔ d ≠ 0x80 := by
  have hlow : -128 ≤ d.toInt := BitVec.le_toInt d
  rw [le_div_iff₀ (by norm_num), neg_one_mul, ne_eq, ← toInt_eq_lowest_iff]
  have hcast : (-127 : ℚ) ≤ d.toInt ↔ -127 ≤ d.toInt := by exact_mod_cast Iff.rfl
  rw [hcast]
  omega

theorem quotient_le_one (d : Byte) : (d.toInt : ℚ) / 127 ≤ 1 := by
  have hhigh : d.toInt ≤ 127 := Int.le_of_lt_add_one BitVec.toInt_lt
  rw [div_le_one (by norm_num)]
  exact_mod_cast hhigh

/-- R109: only byte `0x80` is clamped, to -1. -/
theorem clamp_quotient (d : Byte) :
    clamp (-1) 1 ((d.toInt : ℚ) / 127) = if d = 0x80 then -1 else (d.toInt : ℚ) / 127 := by
  have hlow := neg_one_le_quotient_iff d
  rw [clamp, if_neg (quotient_le_one d).not_gt]
  by_cases hd : d = 0x80
  · rw [if_pos hd, if_pos (not_le.mp fun h => hlow.mp h hd)]
  · rw [if_neg hd, if_neg (hlow.mpr hd).not_gt]

/-- The block's fraction for a payload byte. -/
theorem bridgeSpeed_eq (d : Byte) : bridgeSpeed d = if d = 0x80 then .finite (-1) 1 else .finite d.toInt 127 := by
  by_cases hd : d = 0x80
  · rw [if_pos hd, hd]
    rfl
  · have hlow : -128 ≤ d.toInt := BitVec.le_toInt d
    have hhigh : d.toInt ≤ 127 := Int.le_of_lt_add_one BitVec.toInt_lt
    have hlowest : d.toInt ≠ -128 := fun h => hd ((toInt_eq_lowest_iff d).mp h)
    rw [if_neg hd, bridgeSpeed, clampToUnit, signed8, bridgeDivisor, if_neg (by omega), if_neg (by omega)]

/-- R108, R109: that fraction is the clamped quotient. -/
theorem bridgeSpeed_finite (d : Byte) : ∃ num den, bridgeSpeed d = .finite num den ∧ 0 < den ∧
    (num : ℚ) / den = clamp (-1) 1 ((d.toInt : ℚ) / 127) := by
  rw [bridgeSpeed_eq, clamp_quotient]
  split
  · exact ⟨-1, 1, rfl, one_pos, by norm_num⟩
  · exact ⟨d.toInt, 127, rfl, by norm_num, by norm_num⟩

theorem bridgeSpeed_isZero_iff (d : Byte) : (bridgeSpeed d).isZero = true ↔ d = 0 := by
  rw [bridgeSpeed_eq]
  split
  next hd => simp [Speed.isZero, hd]
  next hd =>
    rw [Speed.isZero, decide_eq_true_iff]
    exact ⟨fun h => BitVec.eq_of_toInt_eq h, fun h => h ▸ rfl⟩

theorem abs_clamp_quotient_le_one (d : Byte) : |clamp (-1) 1 ((d.toInt : ℚ) / 127)| ≤ 1 := by
  rw [clamp_quotient]
  split
  next => norm_num
  next hd => exact abs_le.mpr ⟨(neg_one_le_quotient_iff d).mpr hd, quotient_le_one d⟩

/-! ### The statements -/

/-- Settles O30: negative zero by evaluation, the patterns without a value by their two classes. -/
theorem specialSpeedPatterns : Obligations.SpecialSpeedPatterns :=
  ⟨by decide, by decide, by decide,
    fun _ hnone => ⟨speedCode_of_val_none hnone, isZero_of_val_none hnone, moveFlag_of_val_none hnone⟩⟩

/-- Settles O31: the procedure is `R`, and the sign bit and the significand decide the branch of the formula. -/
theorem integerProcedureAgrees : Obligations.IntegerProcedureAgrees := by
  intro p v hv
  have hR := integerProcedure_eq_rnd hv
  have hzero := val_eq_zero_iff hv
  refine ⟨hR, fun hfit => ?_⟩
  obtain ⟨c, hc, hformula⟩ := speedCode_of_fits hv (by omega)
  refine ⟨c, hc, ?_⟩
  rw [codeFormula_of_abs, ← hR] at hformula
  by_cases hsig : significand p = 0
  · rw [if_pos (hzero.mpr hsig)] at hformula
    rw [if_pos hsig]
    omega
  · have hne : v ≠ 0 := fun h => hsig (hzero.mp h)
    rw [if_neg hne] at hformula
    rw [if_neg hsig]
    cases hsign : signBit p with
    | true =>
      rw [if_pos (lt_of_le_of_ne (val_nonpos_of_minus hv hsign) hne)] at hformula
      rw [if_pos rfl]
      omega
    | false =>
      rw [if_neg (val_nonneg_of_plus hv hsign).not_gt] at hformula
      rw [if_neg Bool.false_ne_true]
      omega

/-- Settles O32: flipping the sign bit negates the value, and the offsets of the two branches differ by one. -/
theorem speedCodesAreOneUnitAsymmetric : Obligations.SpeedCodesAreOneUnitAsymmetric := by
  intro p x hx hpos hfit
  obtain ⟨c, hc, hcode⟩ := speedCode_of_fits hx (by rwa [abs_of_pos hpos])
  obtain ⟨c', hc', hcode'⟩ := speedCode_of_fits (val_flip p hx) (by rwa [abs_neg, abs_of_pos hpos])
  refine ⟨c, c', hc, hc', ?_⟩
  rw [hcode, hcode', codeFormula_of_pos hpos, codeFormula_of_neg (neg_lt_zero.mpr hpos), neg_mul, rnd_neg]
  ring

/-- Settles O33: the specified codes are the formula's values, which are in the order of the speeds. -/
theorem speedCodeIsMonotone : Obligations.SpeedCodeIsMonotone := by
  intro p p' v v' c c' hv hv' hc hc' hle
  have hcode := toNat_of_speedCode hv hc
  have hcode' := toNat_of_speedCode hv' hc'
  have hmono := codeFormula_mono hle
  refine ⟨by omega, fun hside hfar => ?_⟩
  have hstrict := codeFormula_strict hside hfar
  omega

/-- Settles O34: the ends by evaluation; inside, `R` is at most 3283 and the sign of the speed decides the branch. -/
theorem contractSpeedsHaveCodesInRange : Obligations.ContractSpeedsHaveCodesInRange := by
  refine ⟨by decide, by decide, fun p v hv hunit => ?_⟩
  have hhigh := rnd_abs_le_of_abs_le_one hunit
  have hlow : 0 ≤ rnd (|v| * 3283) := rnd_nonneg (by positivity)
  obtain ⟨c, hc, hcode⟩ := speedCode_of_fits hv (hhigh.trans (by norm_num))
  rw [codeFormula_of_abs] at hcode
  refine ⟨c, hc, fun hzero => ?_, fun hpos => ?_, fun hneg => ?_⟩
  · rw [if_pos hzero] at hcode; omega
  · rw [if_neg hpos.ne', if_neg hpos.not_gt] at hcode; omega
  · rw [if_neg hneg.ne, if_pos hneg] at hcode; omega

/-- Settles O36: byte by byte the clamp and the block's fraction are known, and `0x81` is -127. -/
theorem bridgeClampsOnlyTheLowestByte : Obligations.BridgeClampsOnlyTheLowestByte := by
  refine fun d => ⟨clamp_quotient d, ?_, bridgeSpeed_finite d, bridgeSpeed_isZero_iff d, by decide⟩
  rw [clamp_quotient]
  by_cases hd : d = 0x80
  · rw [if_pos hd, (toInt_eq_lowest_iff d).mpr hd]
    exact iff_of_true (by norm_num) hd
  · rw [if_neg hd]
    exact iff_of_false (fun h => h rfl) hd

end Sys2Proof.Machine
end

section
/-! PROOFS. The accept step of the jog commands and of `BRIDGE` (41_jog.md R84 to R86, 43_bridge.md R105 to R110): the frame
each of them builds, and what it depends on. -/

namespace Sys2Proof.Machine

/-! ### Every command goes through the one test for an idle block -/

/-- A command word stands for one action that an idle block performs. -/
theorem exec_command (w : Word64) : ∃ act : State → State, ∀ s, exec (decode (.command w)) s = whenReady act s := by
  change ∃ act : State → State, ∀ s, exec (decodeCommand w) s = whenReady act s
  rcases op_cases (opField w) with h | h | h | h | h | h | h | h
  · rw [decodeCommand_op0 h]; exact ⟨_, fun _ => rfl⟩
  · rw [decodeCommand_op1 h]; exact ⟨_, fun _ => rfl⟩
  · rw [decodeCommand_op2 h]; exact ⟨_, fun _ => rfl⟩
  · rw [decodeCommand_op3 h]; exact ⟨_, fun _ => rfl⟩
  · rw [decodeCommand_op4 h]; exact ⟨_, fun _ => rfl⟩
  · rw [decodeCommand_op5 h]; exact ⟨_, fun _ => rfl⟩
  · rw [decodeCommand_op6 h]; exact ⟨_, fun _ => rfl⟩
  · rw [decodeCommand_op7 h]; exact ⟨_, fun _ => rfl⟩

/-! ### The speed code a jog takes -/

/-- The code of a fraction whose formula fits sixteen bits. -/
theorem speedCode_fraction {num : ℤ} {den : ℕ} (hd : 0 < den) (hfit : rnd (|(num : ℚ) / den| * 3283) ≤ 32767) :
    speedCode (.finite num den) = some (BitVec.ofInt 16 (codeFormula ((num : ℚ) / den))) := by
  obtain ⟨hfits, -⟩ := finiteSpeedCode_spec num den hd
  obtain ⟨hcode, -, -⟩ := hfits hfit
  exact hcode

theorem speedCode_pattern {p : Word32} {v : ℚ} (hv : val p = some v) (hfit : rnd (|v| * 3283) ≤ 32767) :
    speedCode (decodeSpeed p) = some (BitVec.ofInt 16 (codeFormula v)) := by
  obtain ⟨num, den, hp, hd, rfl⟩ := decodeSpeed_finite hv
  rw [hp, speedCode_fraction hd hfit]

/-- R80, R81: no code where the pattern has no value, or one too large. -/
theorem speedCode_unspecified {p : Word32} (h : ∀ v, val p = some v → 32767 < rnd (|v| * 3283)) :
    speedCode (decodeSpeed p) = none := by
  cases hv : val p with
  | none => exact speedCode_of_val_none hv
  | some v => exact speedCode_of_not_fits hv (h v hv)

theorem speedCode_bridge (d : Byte) :
    speedCode (bridgeSpeed d) = some (BitVec.ofInt 16 (codeFormula (clamp (-1) 1 ((d.toInt : ℚ) / 127)))) := by
  obtain ⟨num, den, hspeed, hd, hvalue⟩ := bridgeSpeed_finite d
  have hunit := rnd_abs_le_of_abs_le_one (abs_clamp_quotient_le_one d)
  rw [← hvalue] at hunit ⊢
  rw [hspeed, speedCode_fraction hd (hunit.trans (by norm_num))]

theorem moveFlag_bridge (d : Byte) : (bridgeSpeed d).moveFlag = if d = 0 then 0 else 1 := by
  simp only [Speed.moveFlag, bridgeSpeed_isZero_iff]

/-- R86: the flag of a move, by whether the speed equals 0.0. -/
theorem moveFlag_pattern (p : Word32) : (decodeSpeed p).moveFlag = if val p = some 0 then 0 else 1 := by
  cases hv : val p with
  | none => rw [moveFlag_of_val_none hv, if_neg (by simp)]
  | some v => simp only [moveFlag_finite hv, Option.some.injEq]

/-! ### The jog's accept step as a record -/

section Jog

variable {w : Word64} {id flag : Byte} {v : Speed} {s : State} (hidle : s.phase = .idle)
include hidle

/-- A jog with a specified code takes no free value. -/
theorem performJog_builds {code : Code} (hcode : speedCode v = some code) :
    ∃ m, whenReady (performJog w id v flag) s = .next { s with
        phase := .clear, cur := w, curKind := .jog, fb := m, flen := 17 } ∧
      ∀ a, Memory.read m a = (jogFrame Config.consts id flag code)[a]? := by
  refine ⟨_, ?_, read_fill (jogFrame Config.consts id flag code) (by simp [fbSize])⟩
  rw [whenReady_idle hidle, performJog, hcode]
  rfl

/-- A jog without one sends the next free value, and counts the draw. -/
theorem performJog_builds_free (hcode : speedCode v = none) :
    ∃ m, whenReady (performJog w id v flag) s = .next { s with
        phase := .clear, cur := w, curKind := .jog, fb := m, flen := 17, draws := s.draws + 1 } ∧
      ∀ a, Memory.read m a = (jogFrame Config.consts id flag (Config.freeSpeedCode s.draws))[a]? := by
  refine ⟨_, ?_, read_fill (jogFrame Config.consts id flag (Config.freeSpeedCode s.draws)) (by simp [fbSize])⟩
  rw [whenReady_idle hidle, performJog, hcode]
  rfl

end Jog

/-! ### The three outcomes of a `BRIDGE` in an idle block -/

section Bridge

variable {w : Word64} {ident : BitVec 29} {len : Nat} {d : Byte} {s : State}

theorem bridgeAccepts_iff : bridgeAccepts ident len s = true ↔
    s.idset.getLsbD (ident.extractLsb' 0 4).toNat = true ∧ 1 ≤ len := by
  have hcand : (candidateId ident).toNat = (ident.extractLsb' 0 4).toNat := by
    rw [candidateId_toNat, BitVec.extractLsb'_toNat, Nat.shiftRight_zero]
  rw [bridgeAccepts, Bool.and_eq_true, decide_eq_true_iff, hcand]

theorem performBridge_accepted (hlen : len ≤ 8) (haccept : bridgeAccepts ident len s = true) :
    performBridge w ident len d s = performMove w (candidateId ident) (bridgeSpeed d) s := by
  rw [performBridge, if_neg hlen.not_gt, if_pos haccept]

theorem performBridge_ignored (hlen : len ≤ 8) (hreject : ¬bridgeAccepts ident len s = true) :
    performBridge w ident len d s = s.endAtOnce w .ignored := by
  rw [performBridge, if_neg hlen.not_gt, if_neg hreject]

theorem performBridge_reserved (hlen : 8 < len) : performBridge w ident len d s = s.endAtOnce w .illegal :=
  if_pos hlen

/-- R107: a `BRIDGE` emits a frame exactly when its length is allowed and its candidate supported. -/
theorem performBridge_phase_iff (hidle : s.phase = .idle) :
    (performBridge w ident len d s).phase = .clear ↔
      s.idset.getLsbD (ident.extractLsb' 0 4).toNat = true ∧ 1 ≤ len ∧ len ≤ 8 := by
  rw [← and_assoc, ← bridgeAccepts_iff]
  rcases Nat.lt_or_ge 8 len with hlong | hlen
  · rw [performBridge_reserved hlong, endAtOnce_phase, hidle]
    exact iff_of_false (by decide) fun h => hlong.not_ge h.2
  · by_cases haccept : bridgeAccepts ident len s = true
    · rw [performBridge_accepted hlen haccept]
      exact iff_of_true rfl ⟨haccept, hlen⟩
    · rw [performBridge_ignored hlen haccept, endAtOnce_phase, hidle]
      exact iff_of_false (by decide) fun h => haccept h.1

end Bridge

/-! ### What an accept step reads of the state -/

/-- Two outcomes of an accept step agree in what the word, `IDSET` and a free value decide. -/
def SameAcceptance (t t' : State) : Prop :=
  t.phase = t'.phase ∧ t.cur = t'.cur ∧ (t.phase = .clear → t.fb = t'.fb ∧ t.flen = t'.flen ∧ t.curKind = t'.curKind)

section TwoIdleBlocks

variable {s s' : State} (hidle : s.phase = .idle) (hidle' : s'.phase = .idle)

theorem launch_sameAcceptance (w : Word64) (k : Kind) (f : List Byte) (s s' : State) :
    SameAcceptance (State.launch w k f s) (State.launch w k f s') :=
  ⟨rfl, rfl, fun _ => ⟨rfl, rfl, rfl⟩⟩

theorem performJog_sameAcceptance (hdraws : s.draws = s'.draws) (w : Word64) (id : Byte) (v : Speed) (flag : Byte) :
    SameAcceptance (performJog w id v flag s) (performJog w id v flag s') := by
  have hcode : s.chosenCode (speedCode v) = s'.chosenCode (speedCode v) := by
    simp only [State.chosenCode, hdraws]
  rw [performJog, performJog, hcode]
  exact launch_sameAcceptance ..

include hidle hidle'

theorem endAtOnce_sameAcceptance (w : Word64) (r : Result) : SameAcceptance (s.endAtOnce w r) (s'.endAtOnce w r) :=
  ⟨hidle.trans hidle'.symm, rfl, fun hclear => nomatch hidle.symm.trans hclear⟩

theorem performBridge_sameAcceptance (hdraws : s.draws = s'.draws) (hidset : s.idset = s'.idset) (w : Word64)
    (ident : BitVec 29) (len : Nat) (d : Byte) :
    SameAcceptance (performBridge w ident len d s) (performBridge w ident len d s') := by
  have haccepts : bridgeAccepts ident len s' = bridgeAccepts ident len s := by
    rw [bridgeAccepts, bridgeAccepts, hidset]
  rw [performBridge, performBridge, haccepts]
  split
  · exact endAtOnce_sameAcceptance hidle hidle' w _
  · split
    · exact performJog_sameAcceptance hdraws w _ _ _
    · exact endAtOnce_sameAcceptance hidle hidle' w _

theorem whenReady_bothNext_idle {R : State → State → Prop} {act act' : State → State} (h : R (act s) (act' s')) :
    BothNext R (whenReady act s) (whenReady act' s') := by
  rw [whenReady_idle hidle, whenReady_idle hidle']
  exact bothNext_next h

end TwoIdleBlocks

/-! ### Commands that do not read `IDSET` -/

/-- The state with another set of supported motors. -/
def State.withIdset (m : BitVec 16) (s : State) : State := { s with idset := m }

theorem performJog_withIdset (w : Word64) (id : Byte) (v : Speed) (flag : Byte) (m : BitVec 16) (s : State) :
    performJog w id v flag (s.withIdset m) = (performJog w id v flag s).withIdset m := by
  rw [performJog_eq, performJog_eq]
  rfl

theorem whenReady_withIdset {act : State → State} {m : BitVec 16} {s : State}
    (hact : act (s.withIdset m) = (act s).withIdset m) :
    whenReady act (s.withIdset m) = mapNext (State.withIdset m) (whenReady act s) := by
  by_cases hidle : s.phase = .idle
  · rw [whenReady_idle hidle, whenReady_idle (by exact hidle), hact]
    rfl
  · rw [whenReady_busy hidle, whenReady_busy (by exact hidle)]
    rfl

/-! ### The statements -/

/-- Settles O6: the write reaches `IDSET`, whose bits are the low ones of the value, and the membership test reads it there. -/
theorem configWriteIsSeenByTheNextBridge : Obligations.ConfigWriteIsSeenByTheNextBridge := by
  intro v ident len d rsv s hidle
  have hbit : (v.extractLsb' 0 16).getLsbD (ident.extractLsb' 0 4).toNat = v.getLsbD (ident.extractLsb' 0 4).toNat := by
    have hnibble : (ident.extractLsb' 0 4).toNat < 16 := BitVec.isLt _
    rw [BitVec.getLsbD_extractLsb', decide_eq_true hnibble, Bool.true_and, Nat.zero_add]
  refine ⟨s.storeCR 5 v, _, by rw [exec_cfgwr, writeCR_idle hidle], whenReady_idle hidle, ?_⟩
  rw [← hbit]
  exact performBridge_phase_iff (s := s.storeCR 5 v) hidle

/-- Settles O15: where the formula fits it is the code that the jog sends. -/
theorem jogFrameHoldsTheSpeedCode : Obligations.JogFrameHoldsTheSpeedCode := by
  intro id p flag rsv s v hidle hv hfit
  exact performJog_builds hidle (speedCode_pattern hv hfit)

/-- Settles O16: without a specified code the jog draws one. -/
theorem jogFrameWithFreeSpeedCode : Obligations.JogFrameWithFreeSpeedCode := by
  intro id p flag rsv s hidle hunspecified
  exact performJog_builds_free hidle (speedCode_unspecified hunspecified)

/-- Settles O18: the code of positive zero is the idle code. -/
theorem stopFrameIsBuilt : Obligations.StopFrameIsBuilt := by
  intro id rsv s hidle
  have hcode : speedCode (decodeSpeed 0x00000000) = some 0x7FFF := by decide
  exact performJog_builds hidle hcode

/-- Settles O19: a move is a jog whose flag follows the value of the speed. -/
theorem moveAtFrameDerivesTheFlag : Obligations.MoveAtFrameDerivesTheFlag := by
  intro id p rsv s v hidle hv hfit
  rw [← moveFlag_finite hv]
  exact performJog_builds hidle (speedCode_pattern hv hfit)

/-- Settles O20: a speed without a code is no zero: either it has no value, or one whose product rounds above 32767. -/
theorem moveAtFrameWithFreeSpeedCode : Obligations.MoveAtFrameWithFreeSpeedCode := by
  intro id p rsv s hidle hunspecified
  have hnonzero : val p ≠ some 0 := fun hzero => by
    have hbig := hunspecified 0 hzero
    rw [abs_zero, zero_mul, rnd_zero] at hbig
    omega
  have hflag : (decodeSpeed p).moveFlag = 1 := by rw [moveFlag_pattern, if_neg hnonzero]
  rw [← hflag]
  exact performJog_builds_free hidle (speedCode_unspecified hunspecified)

/-- Settles O21: an accepted `BRIDGE` is the move of its candidate, and every clamped speed has a code. -/
theorem bridgeMovesTheCandidate : Obligations.BridgeMovesTheCandidate := by
  intro ident len d rsv s hidle hpayload hlen hmember
  obtain ⟨m, hm, hread⟩ := performJog_builds (w := wordBridge ident len d rsv) (id := candidateId ident)
    (flag := (bridgeSpeed d).moveFlag) hidle (speedCode_bridge d)
  refine ⟨m, ?_, fun a => ?_⟩
  · rw [← hm, whenReady_idle hidle]
    refine (whenReady_idle hidle).trans (congrArg Host.Outcome.next ?_)
    exact performBridge_accepted hlen (bridgeAccepts_iff.mpr ⟨hmember, hpayload⟩)
  · rw [hread, moveFlag_bridge]
    rfl

/-- Settles O22: the membership test fails, and the command ends at once. -/
theorem bridgeIgnoresOtherBusFrames : Obligations.BridgeIgnoresOtherBusFrames := by
  refine ⟨rfl, rfl, fun ident len d rsv s hidle hlen hother => ⟨wordBridge ident len d rsv, ?_⟩⟩
  have hreject : ¬bridgeAccepts ident len s = true := fun haccept => by
    obtain ⟨hmember, hpayload⟩ := bridgeAccepts_iff.mp haccept
    rcases hother with hclear | hempty
    · exact Bool.false_ne_true (hclear.symm.trans hmember)
    · omega
  rw [← endAtOnce_eq (opField_wordBridge ident len d rsv), ← performBridge_ignored (d := d) hlen hreject]
  exact whenReady_idle hidle

/-- Settles O24: every command passes the test for an idle block, which a busy one fails. -/
theorem busyBlockTurnsCommandsAway : Obligations.BusyBlockTurnsCommandsAway := by
  intro w s hbusy
  obtain ⟨act, hact⟩ := exec_command w
  rw [hact, whenReady_busy hbusy]

/-- Settles O25: all three commands perform the one jog, with their own word latched. -/
theorem stopAndMoveAtAreJogs : Obligations.StopAndMoveAtAreJogs := by
  refine ⟨fun id r q s hidle => ?stop, fun id p r q s hidle => ?moveat⟩
  case stop => exact whenReady_bothNext_idle hidle hidle ⟨rfl, opField_wordM 4 id r⟩
  case moveat =>
    rw [← moveFlag_pattern]
    exact whenReady_bothNext_idle hidle hidle ⟨rfl, opField_wordMoveAt id p r⟩

/-- Settles O27: of the actions of the eight commands only the bridge's looks at `IDSET`. -/
theorem onlyBridgeConsultsTheIdSet : Obligations.OnlyBridgeConsultsTheIdSet := by
  intro w m s hop
  change exec (decodeCommand w) (s.withIdset m) = mapNext (State.withIdset m) (exec (decodeCommand w) s)
  rcases op_cases (opField w) with h | h | h | h | h | h | h | h
  · rw [decodeCommand_op0 h]; exact whenReady_withIdset rfl
  · rw [decodeCommand_op1 h]; exact whenReady_withIdset rfl
  · rw [decodeCommand_op2 h]; exact whenReady_withIdset rfl
  · rw [decodeCommand_op3 h]; exact whenReady_withIdset (performJog_withIdset ..)
  · rw [decodeCommand_op4 h]; exact whenReady_withIdset (performJog_withIdset ..)
  · rw [decodeCommand_op5 h]; exact whenReady_withIdset (performJog_withIdset ..)
  · exact absurd h hop
  · rw [decodeCommand_op7 h]; exact whenReady_withIdset rfl

/-- Settles O28: command by command, what the accept step builds is the same in both blocks. -/
theorem frameDependsOnOperandsOnly : Obligations.FrameDependsOnOperandsOnly := by
  intro w s s' hidle hidle' hidset hdraws
  change BothNext SameAcceptance (exec (decodeCommand w) s) (exec (decodeCommand w) s')
  rcases op_cases (opField w) with h | h | h | h | h | h | h | h
  · rw [decodeCommand_op0 h]; exact whenReady_bothNext_idle hidle hidle' (launch_sameAcceptance ..)
  · rw [decodeCommand_op1 h]; exact whenReady_bothNext_idle hidle hidle' (launch_sameAcceptance ..)
  · rw [decodeCommand_op2 h]; exact whenReady_bothNext_idle hidle hidle' (launch_sameAcceptance ..)
  · rw [decodeCommand_op3 h]; exact whenReady_bothNext_idle hidle hidle' (performJog_sameAcceptance hdraws ..)
  · rw [decodeCommand_op4 h]; exact whenReady_bothNext_idle hidle hidle' (performJog_sameAcceptance hdraws ..)
  · rw [decodeCommand_op5 h]; exact whenReady_bothNext_idle hidle hidle' (performJog_sameAcceptance hdraws ..)
  · rw [decodeCommand_op6 h]
    exact whenReady_bothNext_idle hidle hidle' (performBridge_sameAcceptance hidle hidle' hdraws hidset ..)
  · rw [decodeCommand_op7 h]; exact whenReady_bothNext_idle hidle hidle' (endAtOnce_sameAcceptance hidle hidle' ..)

end Sys2Proof.Machine
end

section
/-! PROOFS. What no step reads: the bits of `CUR` above `OP` (10_state.md R14, 30_encoding.md R60) and the inbound bytes
(42_transmit.md R92, 70_reset_and_hazards.md R144). One simulation serves both statements. -/

namespace Sys2Proof.Machine

/-! ### Two states that agree in what a step reads -/

/-- The state with another latched word and other inbound bytes. -/
def State.withUnread (w : Word64) (bs : List Byte) (s : State) : State := { s with cur := w, rxbuf := bs }

/-- The two states differ in the operands of `CUR` and in `RXBUF` at most; not in `CUR` where `SameCur` holds, and not in `RXBUF`
where `SameRx` holds. -/
inductive AgreeRead (SameCur SameRx : Prop) (s : State) : State → Prop where
  | mk (w : Word64) (bs : List Byte) (hop : opField w = opField s.cur) (hcur : SameCur → w = s.cur)
      (hrx : SameRx → bs = s.rxbuf) : AgreeRead SameCur SameRx s (s.withUnread w bs)

/-- The two outcomes are of one sort: next states that `R` relates, or the same reason to stop. -/
inductive SameOutcome (R : State → State → Prop) :
    Host.Outcome State Fault Refusal → Host.Outcome State Fault Refusal → Prop where
  | next {t t' : State} (h : R t t') : SameOutcome R (.next t) (.next t')
  | fault (e : Fault) : SameOutcome R (.fault e) (.fault e)
  | refused (r : Refusal) : SameOutcome R (.refused r) (.refused r)

/-- Outcomes related by `R` look the same through a function that does not tell `R`'s pairs apart. -/
theorem SameOutcome.mapNext_eq {R : State → State → Prop} {o o' : Host.Outcome State Fault Refusal}
    (h : SameOutcome R o o') {g : State → State} (hg : ∀ t t', R t t' → g t' = g t) : mapNext g o' = mapNext g o := by
  cases h with
  | next h => exact congrArg Host.Outcome.next (hg _ _ h)
  | fault | refused => rfl

section Simulation

variable {SameCur SameRx : Prop} {s s' : State} (h : AgreeRead SameCur SameRx s s')
include h

/-! ### The accept step -/

theorem AgreeRead.launch (w : Word64) (k : Kind) (f : List Byte) :
    AgreeRead SameCur SameRx (State.launch w k f s) (State.launch w k f s') := by
  obtain ⟨_, bs, -, -, hrx⟩ := h
  exact .mk w bs rfl (fun _ => rfl) hrx

theorem AgreeRead.endAtOnce (w : Word64) (r : Result) :
    AgreeRead SameCur SameRx (s.endAtOnce w r) (s'.endAtOnce w r) := by
  obtain ⟨_, bs, -, -, hrx⟩ := h
  exact .mk w bs rfl (fun _ => rfl) hrx

theorem AgreeRead.performJog (w : Word64) (id : Byte) (v : Speed) (flag : Byte) :
    AgreeRead SameCur SameRx (performJog w id v flag s) (performJog w id v flag s') := by
  obtain ⟨_, bs, -, -, hrx⟩ := h
  rw [performJog_eq, performJog_eq]
  exact .mk w bs rfl (fun _ => rfl) hrx

theorem AgreeRead.performBridge (w : Word64) (ident : BitVec 29) (len : Nat) (d : Byte) :
    AgreeRead SameCur SameRx (performBridge w ident len d s) (performBridge w ident len d s') := by
  have haccepts : bridgeAccepts ident len s' = bridgeAccepts ident len s := by
    cases h
    rfl
  rw [Machine.performBridge, Machine.performBridge, haccepts]
  split
  · exact h.endAtOnce w _
  · split
    · exact h.performJog w _ _ _
    · exact h.endAtOnce w _

theorem AgreeRead.whenReady {act : State → State} (hact : AgreeRead SameCur SameRx (act s) (act s')) :
    SameOutcome (AgreeRead SameCur SameRx) (whenReady act s) (whenReady act s') := by
  have hphase : s'.phase = s.phase := by
    cases h
    rfl
  by_cases hidle : s.phase = .idle
  · rw [whenReady_idle hidle, whenReady_idle (hphase.trans hidle)]
    exact .next hact
  · rw [whenReady_busy hidle, whenReady_busy (hphase ▸ hidle)]
    exact .next h

/-! ### The configuration accesses -/

theorem AgreeRead.answerRead (n : Nat) :
    AgreeRead SameCur SameRx (s.answerRead (s.readCR n)) (s'.answerRead (s'.readCR n)) := by
  have hread : s'.readCR n = s.readCR n := by
    cases h
    unfold State.readCR
    split <;> rfl
  rw [hread]
  obtain ⟨w, bs, hop, hcur, hrx⟩ := h
  exact .mk w bs hop hcur hrx

theorem AgreeRead.writeCR (n : Nat) (v : Word32) :
    AgreeRead SameCur SameRx (s.writeCR n v) (s'.writeCR n v) := by
  obtain ⟨w, bs, hop, hcur, hrx⟩ := h
  by_cases hidle : s.phase = .idle
  · rw [writeCR_idle hidle, writeCR_idle (by exact hidle)]
    unfold State.storeCR
    split <;> exact .mk w bs hop hcur hrx
  · rw [writeCR_busy hidle, writeCR_busy (by exact hidle)]
    exact .mk w bs hop hcur hrx

/-- An instruction overwrites `CUR` or passes it on, and does not look at `RXBUF`. -/
theorem AgreeRead.exec (i : Instr) : SameOutcome (AgreeRead SameCur SameRx) (exec i s) (exec i s') := by
  cases i with
  | activate | deactivate | loadparams => exact h.whenReady (h.launch _ _ _)
  | jog | stop | moveat => exact h.whenReady (h.performJog _ _ _ _)
  | bridge => exact h.whenReady (h.performBridge _ _ _ _)
  | reserved7 => exact h.whenReady (h.endAtOnce _ _)
  | cfgrd n => exact .next (h.answerRead n)
  | cfgwr n v => exact .next (h.writeCR n v)

/-! ### The encoder's own steps and the other agents -/

theorem AgreeRead.writeStep (count : Nat) :
    SameOutcome (AgreeRead SameCur SameRx) (writeStep count s) (writeStep count s') := by
  obtain ⟨w, bs, hop, hcur, hrx⟩ := h
  cases hread : s.fb.readRange 0 s.flen.toNat with
  | error e =>
    rw [writeStep_error hread, writeStep_error (s := s.withUnread w bs) hread]
    exact .fault e
  | ok f =>
    rw [writeStep_ok hread, writeStep_ok (s := s.withUnread w bs) hread]
    exact .next (.mk w bs hop hcur hrx)

theorem AgreeRead.drainStep : AgreeRead SameCur SameRx (drainStep s) (drainStep s') := by
  obtain ⟨w, bs, hop, hcur, hrx⟩ := h
  have hdrained : (s.withUnread w bs).drained = s.drained := rfl
  rw [Machine.drainStep, Machine.drainStep, hdrained]
  split
  · exact .mk w bs hop hcur hrx
  · exact .mk w bs hop hcur hrx

/-- The completion reads the `OP` of `CUR`. -/
theorem AgreeRead.settleStep : AgreeRead SameCur SameRx (settleStep s) (settleStep s') := by
  obtain ⟨w, bs, hop, hcur, hrx⟩ := h
  have hdone : ((s.withUnread w bs).complete (s.withUnread w bs).writeResult).withPhase .idle =
      ((s.complete s.writeResult).withPhase .idle).withUnread w bs := by
    rw [State.complete, show opField (s.withUnread w bs).cur = opField s.cur from hop]
    rfl
  have htmr : (s.withUnread w bs).tmr = s.tmr := rfl
  rw [Machine.settleStep, Machine.settleStep, htmr, hdone]
  split
  · exact .mk w bs hop hcur hrx
  · exact .mk w bs hop hcur hrx

theorem AgreeRead.encoderStep (count : Nat) :
    SameOutcome (AgreeRead SameCur SameRx) (encoderStep count s) (encoderStep count s') := by
  have hphase : s'.phase = s.phase := by
    cases h
    rfl
  rw [Machine.encoderStep, Machine.encoderStep, hphase]
  cases s.phase with
  | idle => exact .next h
  | clear =>
    obtain ⟨w, bs, hop, hcur, hrx⟩ := h
    exact .next (.mk w [] hop hcur fun _ => rfl)
  | write => exact h.writeStep count
  | drain => exact .next h.drainStep
  | settle => exact .next h.settleStep

theorem AgreeRead.agentMove (m : AgentMove) :
    SameOutcome (AgreeRead SameCur SameRx) (agentMove m s) (agentMove m s') := by
  cases m with
  | encoder count => exact h.encoderStep count
  | linkByte b =>
    obtain ⟨w, bs, hop, hcur, hrx⟩ := h
    exact .next (.mk w (bs ++ [b]) hop hcur fun hp => by rw [hrx hp, linkReceive_rxbuf])
  | transportSends =>
    obtain ⟨w, bs, hop, hcur, hrx⟩ := h
    exact .next (.mk w bs hop hcur hrx)
  | reset kept =>
    obtain ⟨w, bs, hop, hcur, hrx⟩ := h
    exact .next (.mk 0 bs rfl (fun _ => rfl) hrx)

/-! ### One step -/

theorem AgreeRead.withInputs (l : List Input) : AgreeRead SameCur SameRx (s.withInputs l) (s'.withInputs l) := by
  obtain ⟨w, bs, hop, hcur, hrx⟩ := h
  exact .mk w bs hop hcur hrx

theorem AgreeRead.freeRun : SameOutcome (AgreeRead SameCur SameRx) (freeRun s) (freeRun s') := by
  have hphase : s'.phase = s.phase := by
    cases h
    rfl
  have hdraws : s'.draws = s.draws := by
    cases h
    rfl
  rw [Machine.freeRun, Machine.freeRun, hphase, hdraws]
  split
  · obtain ⟨w, bs, hop, hcur, hrx⟩ := h
    exact AgreeRead.writeStep (s := s.afterDraws 1) (.mk w bs hop hcur hrx) _
  · exact h.encoderStep 0

/-- A step keeps the agreement, whatever move comes next. -/
theorem AgreeRead.step : SameOutcome (AgreeRead SameCur SameRx) (step s) (step s') := by
  have hinputs : s'.inputs = s.inputs := by
    cases h
    rfl
  cases hi : s.inputs with
  | nil =>
    rw [step_of_nothing hi, step_of_nothing (hinputs.trans hi)]
    exact h.freeRun
  | cons i rest =>
    cases i with
    | port a =>
      rw [step_of_port hi, step_of_port (hinputs.trans hi)]
      exact (h.withInputs rest).exec (decode a)
    | agent m =>
      rw [step_of_agent hi, step_of_agent (hinputs.trans hi)]
      exact (h.withInputs rest).agentMove m

end Simulation

/-! ### The statements -/

/-- Settles O12: the two states agree in what a step reads and in `RXBUF`, so the outcomes do, and share the `OP` of `CUR`. -/
theorem latchedOperandsAreNeverRead : Obligations.LatchedOperandsAreNeverRead := by
  intro s w hop
  have hagree : AgreeRead False True s { s with cur := w } := .mk w s.rxbuf hop False.elim fun _ => rfl
  refine hagree.step.mapNext_eq fun t t' ht => ?_
  obtain ⟨w', bs', hop', -, hrx'⟩ := ht
  simp only [State.withUnread, hop', hrx' trivial]

/-- Settles O53: the same simulation with `CUR` equal and any `RXBUF`. -/
theorem inboundBytesAreNeverRead : Obligations.InboundBytesAreNeverRead := by
  intro s bs
  have hagree : AgreeRead True False s { s with rxbuf := bs } := .mk s.cur bs rfl (fun _ => rfl) False.elim
  refine hagree.step.mapNext_eq fun t t' ht => ?_
  obtain ⟨w', bs', -, hcur', -⟩ := ht
  simp only [State.withUnread, hcur' trivial]

end Sys2Proof.Machine
end

section
/-! PROOFS. The transmission contract step by step (42_transmit.md R92 to R98), the moves of the other agents (10_state.md R27),
and the whole run of a command: clear, write, drain, settle, complete (R90, R97). -/

namespace Sys2Proof.Machine

/-! ### The encoder's step in each phase -/

section EncoderPhases

variable {s : State} {n : Nat}

theorem encoderStep_idle (h : s.phase = .idle) : encoderStep n s = .next s := by
  rw [encoderStep, h]

theorem encoderStep_clear (h : s.phase = .clear) : encoderStep n s = .next (clearStep s) := by
  rw [encoderStep, h]

theorem encoderStep_write (h : s.phase = .write) : encoderStep n s = writeStep n s := by
  rw [encoderStep, h]

theorem encoderStep_waits (h : s.phase = .drain) (hpending : s.txpend ≠ []) : encoderStep n s = .next s := by
  rw [encoderStep, h]
  simp [drainStep, State.drained, hpending]

theorem encoderStep_drained (h : s.phase = .drain) (hempty : s.txpend = []) :
    encoderStep n s = .next ((s.withTimer (s.settleOf s.curKind)).withPhase .settle) := by
  rw [encoderStep, h]
  simp [drainStep, State.drained, hempty]

theorem encoderStep_ticks (h : s.phase = .settle) (htmr : s.tmr ≠ 0) :
    encoderStep n s = .next (s.withTimer (s.tmr - 1)) := by
  rw [encoderStep, h]
  simp only [settleStep, if_neg htmr]

theorem encoderStep_completes (h : s.phase = .settle) (htmr : s.tmr = 0) :
    encoderStep n s = .next ((s.complete s.writeResult).withPhase .idle) := by
  rw [encoderStep, h]
  simp only [settleStep, if_pos htmr]

end EncoderPhases

/-! ### The statements about one step -/

/-- Settles O38: the encoder's step in CLEAR is the clear step. -/
theorem clearStepEmptiesTheInboundBuffer : Obligations.ClearStepEmptiesTheInboundBuffer := by
  intro s rest hclear hnext
  obtain ⟨n, hstep⟩ := step_of_encoderNext hnext (by simp [hclear])
  exact hstep.trans (encoderStep_clear hclear)

/-- Settles O39: the write step reads the whole frame back from the frame buffer. -/
theorem writeStepAppendsTheAcceptedBytes : Obligations.WriteStepAppendsTheAcceptedBytes := by
  intro s f n rest hwrite hlen hfb hflen hi
  refine ⟨_, rfl, ?_⟩
  have hread : (s.withInputs rest).fb.readRange 0 (s.withInputs rest).flen.toNat = .ok f :=
    readRange_filled hlen hfb hflen
  rw [step_of_encoder hi, encoderStep_write (s := s.withInputs rest) hwrite, writeStep_ok hread, State.txWrite,
    List.take_eq_take_min]
  rfl

/-- Settles O40: with nothing listed the count is drawn. -/
theorem unscheduledWriteTakesAFreeCount : Obligations.UnscheduledWriteTakesAFreeCount := by
  intro s f hwrite hlen hfb hflen hi
  refine ⟨_, rfl, ?_⟩
  have hread : (s.afterDraws 1).fb.readRange 0 (s.afterDraws 1).flen.toNat = .ok f := readRange_filled hlen hfb hflen
  rw [step_of_nothing hi, freeRun, if_pos hwrite, writeStep_ok hread, State.txWrite,
    List.take_eq_take_min]
  rfl

/-- Settles O41: in DRAIN the encoder waits on a `TXPEND` that is not empty. -/
theorem drainWaitsThenLoadsTheSettleTime : Obligations.DrainWaitsThenLoadsTheSettleTime := by
  intro s rest hdrain hnext
  obtain ⟨n, hstep⟩ := step_of_encoderNext hnext (by simp [hdrain])
  refine ⟨fun hpending => ?waits, fun hempty => ?loads⟩
  case waits => exact hstep.trans (encoderStep_waits hdrain hpending)
  case loads => exact hstep.trans (encoderStep_drained hdrain hempty)

/-- Settles O42: in SETTLE the encoder ticks above zero and completes at zero. -/
theorem settleCountsDownThenCompletes : Obligations.SettleCountsDownThenCompletes := by
  intro s rest hsettle hnext
  obtain ⟨n, hstep⟩ := step_of_encoderNext hnext (by simp [hsettle])
  refine ⟨fun htmr => ?ticks, fun hzero r hr => ?completes⟩
  case ticks => exact hstep.trans (encoderStep_ticks hsettle htmr)
  case completes => exact hr ▸ hstep.trans (encoderStep_completes hsettle hzero)

/-- Settles O43: both moves are made as they are listed. -/
theorem transportAndLinkMoves : Obligations.TransportAndLinkMoves :=
  fun _ _ _ => ⟨step_of_agent, step_of_agent⟩

/-- Settles O48: in IDLE the encoder's step changes nothing. -/
theorem idleBlockDoesNothing : Obligations.IdleBlockDoesNothing := by
  intro s rest hidle hnext
  obtain ⟨n, hstep⟩ := step_of_encoderNext hnext (by simp [hidle])
  exact hstep.trans (encoderStep_idle hidle)

/-- A row's bits of full width are the word itself. -/
theorem tableWord_toNat (w : Word64) : tableWord 64 w.toNat = w := by
  rw [tableWord, Nat.mod_eq_of_lt w.isLt, BitVec.ofNat_toNat, BitVec.setWidth_eq]

/-- Settles O47: a port access is decoded and run, and encoding an instruction presents it. -/
theorem stepRunsThePresentedInstruction : Obligations.StepRunsThePresentedInstruction := by
  refine ⟨fun s a rest => step_of_port, fun s i rest hwf hi => ?encoded, fun s w => ?fetched⟩
  case encoded =>
    rw [step_of_port hi, decodeOfEncode i hwf]
    rfl
  case fetched =>
    rw [State.withFetchWord, tableWord_toNat]
    exact step_of_port (s := s.pushInput (.port (.command w))) rfl

/-! ### Runs of one phase -/

/-- The command of `s` has completed with the result `r`, the timer run down, with the moves `rest` left. -/
def State.settled (r : Result) (rest : List Input) (s : State) : State :=
  (((s.withTimer 0).complete r).withPhase .idle).withInputs rest

/-- The transport sends all that is pending. -/
theorem run_sends (pending : List Byte) : ∀ (s : State) (rest : List Input), s.txpend = pending →
    s.inputs = List.replicate pending.length (.agent .transportSends) ++ rest →
    Host.Core.run Sys2Proof.core pending.length s = .next { s with txpend := [], inputs := rest } := by
  induction pending with
  | nil =>
    intro s rest hpend hi
    obtain rfl : s.inputs = rest := hi
    exact congrArg (fun l => Host.Outcome.next { s with txpend := l }) hpend
  | cons b pending ih =>
    intro s rest hpend hi
    have hstep : step s = .next _ := step_of_agent hi
    rw [List.length_cons, run_succ hstep]
    exact ih _ rest (congrArg List.tail hpend) rfl

/-- The timer runs down, and the step after that completes the command. -/
theorem run_settle (m : Nat) : ∀ (s : State) (rest : List Input) (r : Result), s.phase = .settle → s.tmr.toNat = m →
    s.inputs = List.replicate (m + 1) (.agent (.encoder 0)) ++ rest → s.writeResult = r →
    Host.Core.run Sys2Proof.core (m + 1) s = .next (s.settled r rest) := by
  induction m with
  | zero =>
    intro s rest r hsettle htmr hi hr
    have hzero : s.tmr = 0 := BitVec.eq_of_toNat_eq htmr
    obtain ⟨-, hdone⟩ := settleCountsDownThenCompletes s rest hsettle (.inl ⟨0, hi⟩)
    rw [run_succ (hdone hzero r hr.symm), State.settled, ← hzero]
    rfl
  | succ m ih =>
    intro s rest r hsettle htmr hi hr
    have hpos : s.tmr ≠ 0 := fun hzero => by simp [hzero] at htmr
    obtain ⟨htick, -⟩ := settleCountsDownThenCompletes s _ hsettle (.inl ⟨0, hi⟩)
    have hticks : (s.tmr - 1).toNat = m := by bv_omega
    rw [run_succ (htick hpos)]
    exact ih _ rest r hsettle hticks rfl hr

section Drain

variable {s : State} {rest : List Input} {r : Result} (hdrain : s.phase = .drain) (hr : s.writeResult = r)
include hdrain hr

/-- Drained, the encoder loads the timer and settles. -/
theorem run_drained (hempty : s.txpend = [])
    (hi : s.inputs = List.replicate ((s.settleOf s.curKind).toNat + 2) (.agent (.encoder 0)) ++ rest) :
    Host.Core.run Sys2Proof.core ((s.settleOf s.curKind).toNat + 2) s = .next (s.settled r rest) := by
  obtain ⟨-, hload⟩ := drainWaitsThenLoadsTheSettleTime s _ hdrain (.inl ⟨0, hi⟩)
  rw [run_succ (hload hempty)]
  exact run_settle _ _ rest r rfl rfl rfl hr

/-- From DRAIN the pending bytes are sent, and then the command settles. -/
theorem run_drain {m : Nat} (hm : s.txpend.length = m)
    (hi : s.inputs = List.replicate m (.agent .transportSends) ++
      (List.replicate ((s.settleOf s.curKind).toNat + 2) (.agent (.encoder 0)) ++ rest)) :
    Host.Core.run Sys2Proof.core (m + ((s.settleOf s.curKind).toNat + 2)) s =
      .next (State.settled r rest { s with txpend := [] }) := by
  subst hm
  rw [run_add (run_sends s.txpend s _ rfl hi)]
  exact run_drained (s := { s with txpend := [], inputs := _ }) hdrain hr rfl rfl

end Drain

/-- The count in `ACC` is that in `FLEN` exactly when the transport was willing to take the whole frame. -/
theorem acc_eq_flen_iff {len : Nat} (hlen : len ≤ 17) (n : Nat) :
    BitVec.ofNat 5 (min n len) = BitVec.ofNat 5 len ↔ len ≤ n := by
  rw [← BitVec.toNat_inj, BitVec.toNat_ofNat, BitVec.toNat_ofNat]
  omega

/-- Settles O44: the clear step, the write step, and the run from DRAIN. -/
theorem acceptedCommandRunsToCompletion : Obligations.AcceptedCommandRunsToCompletion := by
  intro s f n rest r hclear hlen hfb hflen hempty hi hr
  have htaken : (s.txpend ++ f.take (min n f.length)).length = min n f.length := by
    rw [hempty, List.nil_append, List.length_take, min_assoc, min_self]
  obtain ⟨later, hlater⟩ : ∃ later, later = List.replicate (min n f.length) (Input.agent .transportSends) ++
    (List.replicate ((s.settleOf s.curKind).toNat + 2) (.agent (.encoder 0)) ++ rest) := ⟨_, rfl⟩
  rw [← hlater] at hi
  have hclears := clearStepEmptiesTheInboundBuffer s (.agent (.encoder n) :: later) hclear (.inl ⟨0, hi⟩)
  obtain ⟨_, rfl, hwrites⟩ := writeStepAppendsTheAcceptedBytes
    { s with rxbuf := [], phase := .write, inputs := .agent (.encoder n) :: later } f n later rfl hlen hfb hflen rfl
  have htwo : Host.Core.run Sys2Proof.core 2 s = .next _ := (run_succ hclears).trans (run_succ hwrites)
  rw [run_add htwo, List.take_eq_take_min (i := n)]
  have hresult : (if BitVec.ofNat 5 (min n f.length) = s.flen then Result.sent else Result.shortWrite) = r := by
    rw [hr, hflen]
    simp only [acc_eq_flen_iff hlen n]
  refine (run_drain (r := r) (rest := rest) ?_ ?_ ?_ ?_).trans ?_
  · rfl
  · exact hresult
  · exact htaken
  · exact hlater
  · rfl

end Sys2Proof.Machine
end

section
/-! PROOFS. A command presented to an idle block, from its accept step to its result: the frame it launches, with the motor id
at offset 5 (40_fixed_frames.md R65, 43_bridge.md R110), and the run that follows (42_transmit.md R96). -/

namespace Sys2Proof.Machine

/-! ### The frame a presented word launches -/

/-- Presenting `w` to the block launches a frame of kind `k` and length `len` for the motor `id`, the same one whatever moves are
listed, after `d` draws. -/
structure LaunchesFrame (w : Word64) (k : Kind) (id : Byte) (len : Nat) (s : State) (f : List Byte) (d : Nat) : Prop where
  isFrame : IsFrame k f
  length : f.length = len
  idAtFive : f[5]? = some id
  exec_next : ∀ l, exec (decode (.command w)) (s.withInputs l) = .next (State.launch w k f ((s.withInputs l).afterDraws d))

section LatchedWord

variable {w w' : Word64} {s : State} (hword : w' = w)
include hword

/-- A command whose frame is fixed by its operands takes no draw. -/
theorem launchesFrame_fixed {k : Kind} {id : Byte} {f : List Byte} (hidle : s.phase = .idle) (hf : IsFrame k f)
    (hfive : f[5]? = some id)
    (hexec : ∀ t, exec (decode (.command w)) t = whenReady (State.launch w' k f) t) :
    LaunchesFrame w k id f.length s f 0 := by
  subst hword
  exact ⟨hf, rfl, hfive, fun l => (hexec _).trans (whenReady_idle hidle)⟩

/-- A jog takes a draw where its speed has no specified code. -/
theorem launchesFrame_jog {id flag : Byte} {v : Speed}
    (hexec : ∀ l, exec (decode (.command w)) (s.withInputs l) = .next (performJog w' id v flag (s.withInputs l))) :
    ∃ f d, LaunchesFrame w .jog id 17 s f d := by
  subst hword
  exact ⟨_, _, ⟨id, flag, s.chosenCode (speedCode v), rfl⟩, jogFrame_length .., rfl,
    fun l => (hexec l).trans (congrArg _ (performJog_eq ..))⟩

end LatchedWord

/-- The candidate in terms of the word: `IDENT[3:0]` are its bits 35:32 (R56). -/
theorem candidateId_identField (w : Word64) : candidateId (identField w) = (w.extractLsb' 32 4).setWidth 8 := by
  refine congrArg (BitVec.setWidth 8) (BitVec.eq_of_getLsbD_eq fun i hi => ?_)
  grind [identField]

/-- A word with `OP = 6`, an allowed length and a supported candidate. -/
theorem launchesFrame_bridge {w : Word64} {s : State} (hidle : s.phase = .idle) (hop : opField w = 6)
    (hpayload : 1 ≤ lenField w) (hlen : lenField w ≤ 8) (hmember : s.idset.getLsbD (w.extractLsb' 32 4).toNat = true) :
    ∃ f d, LaunchesFrame w .jog ((w.extractLsb' 32 4).setWidth 8) 17 s f d := by
  have haccept : bridgeAccepts (identField w) (lenField w) s = true := by
    rw [bridgeAccepts, candidateId_identField, BitVec.toNat_setWidth_of_le (by decide), hmember, decide_eq_true hpayload]
    rfl
  rw [← candidateId_identField]
  refine launchesFrame_jog (v := bridgeSpeed (data0Field w)) (flag := (bridgeSpeed (data0Field w)).moveFlag)
    (wordBridge_fields hop) fun l => ?_
  rw [decode, decodeCommand_op6 hop]
  refine (whenReady_idle (s := s.withInputs l) hidle).trans (congrArg Host.Outcome.next ?_)
  exact performBridge_accepted (s := s.withInputs l) hlen haccept

/-- Each of the six motor commands launches its frame for the motor in the word's `ID` field. -/
theorem launchesFrame_motor {w : Word64} {k : Kind} {s : State} (hidle : s.phase = .idle) (hop : (opField w).toNat < 6)
    (hk : kindOfOp (opField w) = some k) :
    ∃ f d, LaunchesFrame w k (idField w) (if (opField w).toNat < 2 then 10 else 17) s f d := by
  have hformat (op : BitVec 3) (h : opField w = op) : wordM op (idField w) (reservedM w) = w := h ▸ wordM_fields w
  rcases op_cases (opField w) with h | h | h | h | h | h | h | h <;> rw [h] at hk hop ⊢
  · obtain rfl : Kind.act = k := Option.some.inj hk
    exact ⟨_, _, launchesFrame_fixed (k := .act) (hformat 0 h) hidle ⟨_, rfl⟩ rfl
      fun t => congrArg (exec · t) (decodeCommand_op0 h)⟩
  · obtain rfl : Kind.deact = k := Option.some.inj hk
    exact ⟨_, _, launchesFrame_fixed (k := .deact) (hformat 1 h) hidle ⟨_, rfl⟩ rfl
      fun t => congrArg (exec · t) (decodeCommand_op1 h)⟩
  · obtain rfl : Kind.load = k := Option.some.inj hk
    exact ⟨_, _, launchesFrame_fixed (k := .load) (hformat 2 h) hidle ⟨_, rfl⟩ rfl
      fun t => congrArg (exec · t) (decodeCommand_op2 h)⟩
  · obtain rfl : Kind.jog = k := Option.some.inj hk
    exact launchesFrame_jog (wordJog_fields h) fun l =>
      (congrArg (exec · _) (decodeCommand_op3 h)).trans (whenReady_idle hidle)
  · obtain rfl : Kind.jog = k := Option.some.inj hk
    exact launchesFrame_jog (hformat 4 h) fun l =>
      (congrArg (exec · _) (decodeCommand_op4 h)).trans (whenReady_idle hidle)
  · obtain rfl : Kind.jog = k := Option.some.inj hk
    exact launchesFrame_jog (wordMoveAt_fields h) fun l =>
      (congrArg (exec · _) (decodeCommand_op5 h)).trans (whenReady_idle hidle)
  · exact absurd hop (by decide)
  · exact absurd hop (by decide)

/-! ### The statement -/

/-- Settles O45: the presented word launches its frame, and from there the run is that of O44. -/
theorem presentedCommandReachesTheWire : Obligations.PresentedCommandReachesTheWire := by
  intro s w n len k id rest hidle hempty hword hk hlen hi
  obtain ⟨f, d, hframe, rfl, hfive, hexec⟩ : ∃ f d, LaunchesFrame w k id len s f d := by
    rcases hword with ⟨hop, rfl⟩ | ⟨hop, hpayload, hle, hmember, rfl⟩
    · exact hlen ▸ launchesFrame_motor hidle hop hk
    · rw [hop] at hk hlen
      obtain rfl : Kind.jog = k := Option.some.inj hk
      exact hlen ▸ launchesFrame_bridge hidle hop hpayload hle hmember
  have hport : s.inputs = .port (.command w) :: s.inputs.tail := by
    rw [hi]
    rfl
  have hstep := (step_of_port hport).trans (hexec s.inputs.tail)
  have hrun := acceptedCommandRunsToCompletion (State.launch w k f ((s.withInputs s.inputs.tail).afterDraws d)) f n rest _
    rfl hframe.length_le rfl rfl hempty (congrArg List.tail hi) rfl
  exact ⟨f, State.launch w k f (s.afterDraws d), _, hframe, rfl, hfive, hexec s.inputs, rfl,
    (congrArg (Host.Core.run Sys2Proof.core · s) (Nat.add_right_comm 2 1 _)).trans ((run_succ hstep).trans hrun),
    rfl, rfl, rfl, rfl, rfl, rfl, rfl, rfl, rfl, rfl, rfl⟩

end Sys2Proof.Machine
end
